-- ==== Sys2Proof/Word.lean ====
section
/-! DEFINITION. The 64-bit machine word, the byte, and the two address sorts (spec/00_scope.md R6, R7).

R6: every value is an unsigned 64-bit word unless a width is written; there is no signed quantity in the MMB.
R7: a physical and a virtual address are two sorts with no implicit conversion, so they are two types here. -/

namespace Sys2Proof

/-- A 64-bit machine word (R5 `XLEN`, R6). -/
abbrev Word := BitVec 64

/-- One byte of physical memory (R21). -/
abbrev Byte := BitVec 8

/-- A page-table entry: one 64-bit record (R9, R46). -/
abbrev Pte := Word

/-- A word of PTE flags, the flags operand of the codec and of the walker (R47). -/
abbrev FlagWord := Word

/-- The sort `PhysAddr` (R7): an opaque 64-bit physical address. -/
@[ext] structure PhysAddr where
  /-- The 64-bit value. -/
  val : Word
  deriving DecidableEq, Repr

/-- The sort `VirtAddr` (R7): an opaque 64-bit virtual address. -/
@[ext] structure VirtAddr where
  /-- The 64-bit value. -/
  val : Word
  deriving DecidableEq, Repr

/-- Physical address plus byte offset, modulo 2^64 (R41). -/
def PhysAddr.add (p : PhysAddr) (off : Word) : PhysAddr := ⟨p.val + off⟩

/-- Virtual address plus byte offset, modulo 2^64 (R41). -/
def VirtAddr.add (v : VirtAddr) (off : Word) : VirtAddr := ⟨v.val + off⟩

end Sys2Proof
end

