-- ==== Sys2Proof/Config.lean ====
section
/-! DEFINITION. The parameters of the MMB (spec/00_scope.md R5): the constants the spec fixes, the OPEN parameters,
and the free values.

HEAP_LIMIT and MEM_SIZE are OPEN (R5, D11, D15): parameters the model takes as an argument. Every state carries its
platform's values (`Params`), so a statement about every state is about every platform. -/

namespace Sys2Proof.Config

/-- `FRAME_SIZE`, bytes in a frame (R5). -/
def frameSize : Nat := 4096

/-- The unlisted byte of `Memory`: what an address that nothing has written reads as.
DESIGN CHOICE (assumption 2, unsafe): R21 leaves the contents of memory at reset unspecified. -/
def unlistedByte : Byte := 0

/-- `INDEX_SENTINEL` (R5, R38, D8): OPEN, a draw, any 64-bit value. It has no body, so nothing can be proved of its
value (assumption 4). -/
opaque indexSentinel : Word

/-- The free value of `ACTIVE_ROOT` after a reset event (R116: unspecified), one draw for each reset (assumption 3). -/
opaque activeRootAfterReset : Nat → Word

/-- The platform's OPEN parameters (R5): `HEAP_LIMIT` and `MEM_SIZE`. -/
structure Params where
  /-- `HEAP_LIMIT`, the exclusive upper bound of bump growth (R67). -/
  heapLimit : Nat
  /-- `MEM_SIZE`, bytes of physical memory the block can reach (R21). -/
  memSize : Nat
  deriving DecidableEq, Repr

/-- The domain of the OPEN parameters (R5, R67): `HEAP_LIMIT` a multiple of 4096, at most `MEM_SIZE` and at most 2^52;
`MEM_SIZE` at most 2^64. -/
def Params.inDomain (p : Params) : Bool :=
  p.heapLimit % frameSize == 0 && decide (p.heapLimit ≤ p.memSize) && decide (p.heapLimit ≤ 2 ^ 52)
    && decide (p.memSize ≤ 2 ^ 64)

/-- The parameters `State.reset` carries: the values spec/95_test_vectors.md section 3 gives its programs,
`HEAP_LIMIT = 2^52` and `MEM_SIZE = 2^52`. DESIGN CHOICE (assumption 1, unsafe): the spec leaves both OPEN. -/
def resetParams : Params := { heapLimit := 2 ^ 52, memSize := 2 ^ 52 }

end Sys2Proof.Config
end

