-- ==== Sys2Proof/Syntax.lean ====
section
/-! DEFINITION. The command packet (spec/30_encoding.md R30) and the 25 commands, one constructor per row of
spec/opcode_table.json (R32). A constructor carries exactly the operands its row reads, in operand order. -/

namespace Sys2Proof

/-- A command packet: five 64-bit words sent as one unit (R30). -/
structure Packet where
  /-- Word 0: `opcode` in bits 7:0, `rsvd` in bits 63:8. -/
  word0 : Word
  /-- Word 1, the first operand. -/
  a0 : Word
  /-- Word 2, the second operand. -/
  a1 : Word
  /-- Word 3, the third operand. -/
  a2 : Word
  /-- Word 4, the fourth operand. -/
  a3 : Word
  deriving DecidableEq, Repr

/-- The commands of the MMB (R32). -/
inductive Instr where
  /-- `VA_INDEX` (R38). -/
  | vaIndex (vaddr : VirtAddr) (level : Word)
  /-- `VA_OFFSET` (R40). -/
  | vaOffset (vaddr : VirtAddr)
  /-- `ADDR_ADD` (R42). The operand is of either sort: the hardware cannot tell (R7). -/
  | addrAdd (addr bytes : Word)
  /-- `ADDR_SUB` (R43). -/
  | addrSub (addr bytes : Word)
  /-- `PTE_NEW_PAGE` (R55). -/
  | pteNewPage (paddr : PhysAddr) (flags : FlagWord)
  /-- `PTE_NEW_TABLE` (R56). -/
  | pteNewTable (paddr : PhysAddr)
  /-- `PTE_SET_FLAGS` (R57). -/
  | pteSetFlags (entry : Pte) (flags : FlagWord)
  /-- `PTE_SET_ADDR` (R58). -/
  | pteSetAddr (entry : Pte) (paddr : PhysAddr)
  /-- `PTE_SET_UNUSED` (R59). -/
  | pteSetUnused (entry : Pte)
  /-- `PTE_IS_UNUSED` (R60). -/
  | pteIsUnused (entry : Pte)
  /-- `PTE_IS_PRESENT` (R61). -/
  | pteIsPresent (entry : Pte)
  /-- `PTE_PHYS_ADDR` (R62). -/
  | ptePhysAddr (entry : Pte)
  /-- `PTE_FLAGS` (R63). -/
  | pteFlags (entry : Pte)
  /-- `FA_INIT` (R69). -/
  | faInit (firstFree : PhysAddr)
  /-- `FA_ALLOC` (R70). -/
  | faAlloc
  /-- `FA_FREE` (R71). -/
  | faFree (frame : PhysAddr)
  /-- `PT_CREATE` (R78). -/
  | ptCreate
  /-- `PT_ATTACH` (R79). -/
  | ptAttach (root : PhysAddr)
  /-- `PT_MAP` (R80). -/
  | ptMap (vaddr : VirtAddr) (paddr : PhysAddr) (flags : FlagWord)
  /-- `PT_UNMAP` (R81). -/
  | ptUnmap (vaddr : VirtAddr)
  /-- `PT_GET_L1` (R82). -/
  | ptGetL1 (vaddr : VirtAddr)
  /-- `PT_RETRIEVE` (R83). -/
  | ptRetrieve (vaddr : VirtAddr)
  /-- `PT_MAP_REGION` (R84). -/
  | ptMapRegion (vstart : VirtAddr) (pstart : PhysAddr) (size : Word) (flags : FlagWord)
  /-- `PT_UNMAP_REGION` (R85). -/
  | ptUnmapRegion (vstart : VirtAddr) (size : Word)
  /-- `PT_ENABLE` (R86). -/
  | ptEnable
  deriving DecidableEq, Repr

end Sys2Proof
end

