-- ==== Sys2Proof/WellFormed.lean ====
section
/-! DEFINITION. What makes a packet legal (spec/30_encoding.md R33), and which operand values lie in the domain the host
must keep to (spec/70_reset_and_hazards.md R121).

R33: an operand value is never illegal, so every term of `Instr` is an executable command and the checks of legality are
checks on packets. `Instr.operandsInDomain` is no legality check: a command whose operands fail it still runs
(R105), as its rule mechanically says. -/

namespace Sys2Proof

/-- The opcode field, word 0 bits 7:0 (R30). -/
def Packet.opcode (p : Packet) : BitVec 8 := p.word0.extractLsb' 0 8

/-- The reserved field, word 0 bits 63:8 (R30). -/
def Packet.rsvd (p : Packet) : BitVec 56 := p.word0.extractLsb' 8 56

/-- The 25 assigned opcodes in the table's order (R32). -/
def assignedOpcodes : List (BitVec 8) :=
  [0x10, 0x11, 0x12, 0x13] ++
  [0x20, 0x21, 0x22, 0x23, 0x24, 0x25, 0x26, 0x27, 0x28] ++
  [0x30, 0x31, 0x32] ++
  [0x40, 0x41, 0x42, 0x43, 0x44, 0x45, 0x46, 0x47, 0x48]

/-- Check 1 of R33: no bit of `rsvd` is set. -/
def Packet.rsvdZero (p : Packet) : Bool := p.rsvd == 0

/-- Check 2 of R33: the opcode is a row of the opcode map. -/
def Packet.opcodeAssigned (p : Packet) : Bool := assignedOpcodes.contains p.opcode

/-- A legal packet (R33). -/
def Packet.wellFormed (p : Packet) : Bool := p.rsvdZero && p.opcodeAssigned

/-- A multiple of 4096 (R121 P3, P6, P8, P9). -/
def pageAligned (w : Word) : Bool := w.toNat % Config.frameSize == 0

/-- A multiple of 4096 below 2^52, the addresses that survive an entry's address field (R28, R121 P8). -/
def frameAddress (p : PhysAddr) : Bool := pageAligned p.val && decide (p.val.toNat < 2 ^ 52)

/-- The preconditions of R121 that speak of operands alone: P3 (`FA_INIT`), P6 (`FA_FREE`, the part that needs no
`MEM_SIZE`), P8 (`paddr` operands), P9 (`vaddr` and `size` operands), P11 (the level), P12 (`PT_ATTACH`).
The MMB checks none of them (R105). -/
def Instr.operandsInDomain : Instr → Bool
  | .vaIndex _ level => level == 1 || level == 2 || level == 3 || level == 4
  | .vaOffset _ => true
  | .addrAdd _ _ => true
  | .addrSub _ _ => true
  | .pteNewPage paddr _ => frameAddress paddr
  | .pteNewTable paddr => frameAddress paddr
  | .pteSetFlags _ _ => true
  | .pteSetAddr _ paddr => frameAddress paddr
  | .pteSetUnused _ => true
  | .pteIsUnused _ => true
  | .pteIsPresent _ => true
  | .ptePhysAddr _ => true
  | .pteFlags _ => true
  | .faInit firstFree => pageAligned firstFree.val
  | .faAlloc => true
  | .faFree frame => frameAddress frame && frame.val != 0
  | .ptCreate => true
  | .ptAttach root => frameAddress root
  | .ptMap vaddr paddr _ => pageAligned vaddr.val && frameAddress paddr
  | .ptUnmap vaddr => pageAligned vaddr.val
  | .ptGetL1 vaddr => pageAligned vaddr.val
  | .ptRetrieve vaddr => pageAligned vaddr.val
  | .ptMapRegion vstart pstart size _ => pageAligned vstart.val && frameAddress pstart && pageAligned size
  | .ptUnmapRegion vstart size => pageAligned vstart.val && pageAligned size
  | .ptEnable => true

end Sys2Proof
end

