-- ==== Sys2Proof/Decode.lean ====
section
/-! DEFINITION. The decoder (spec/30_encoding.md R32 to R34), total on any packet and any bytes, and after it the encoder.

R34: a decoder reads five words and looks only at word 0 to pick the command.
R30: stored as bytes, a packet is 40 bytes, word 0 first, each word little-endian. -/

namespace Sys2Proof

/-- Why a packet is illegal (R33). -/
inductive DecodeError where
  /-- Some bit of `rsvd` is set. -/
  | reservedBits
  /-- The opcode is not a row of the opcode map. -/
  | unassignedOpcode (opcode : BitVec 8)
  /-- The bytes are not the 40 of a packet (R30, R34). -/
  | notFortyBytes
  deriving DecidableEq, Repr

/-- The outcome of decoding. -/
inductive Decoded where
  /-- The packet selects this command. -/
  | command (i : Instr)
  /-- The packet is illegal, for this reason. -/
  | rejected (e : DecodeError)
  deriving DecidableEq, Repr

/-- The command, if there is one. -/
def Decoded.toOption : Decoded → Option Instr
  | .command i => some i
  | .rejected _ => none

/-- The command an opcode selects, with the operands its row reads (R32). -/
def decodeOpcode (p : Packet) : Decoded :=
  match p.opcode with
  | 0x10#8 => .command (.vaIndex ⟨p.a0⟩ p.a1)
  | 0x11#8 => .command (.vaOffset ⟨p.a0⟩)
  | 0x12#8 => .command (.addrAdd p.a0 p.a1)
  | 0x13#8 => .command (.addrSub p.a0 p.a1)
  | 0x20#8 => .command (.pteNewPage ⟨p.a0⟩ p.a1)
  | 0x21#8 => .command (.pteNewTable ⟨p.a0⟩)
  | 0x22#8 => .command (.pteSetFlags p.a0 p.a1)
  | 0x23#8 => .command (.pteSetAddr p.a0 ⟨p.a1⟩)
  | 0x24#8 => .command (.pteSetUnused p.a0)
  | 0x25#8 => .command (.pteIsUnused p.a0)
  | 0x26#8 => .command (.pteIsPresent p.a0)
  | 0x27#8 => .command (.ptePhysAddr p.a0)
  | 0x28#8 => .command (.pteFlags p.a0)
  | 0x30#8 => .command (.faInit ⟨p.a0⟩)
  | 0x31#8 => .command .faAlloc
  | 0x32#8 => .command (.faFree ⟨p.a0⟩)
  | 0x40#8 => .command .ptCreate
  | 0x41#8 => .command (.ptAttach ⟨p.a0⟩)
  | 0x42#8 => .command (.ptMap ⟨p.a0⟩ ⟨p.a1⟩ p.a2)
  | 0x43#8 => .command (.ptUnmap ⟨p.a0⟩)
  | 0x44#8 => .command (.ptGetL1 ⟨p.a0⟩)
  | 0x45#8 => .command (.ptRetrieve ⟨p.a0⟩)
  | 0x46#8 => .command (.ptMapRegion ⟨p.a0⟩ ⟨p.a1⟩ p.a2 p.a3)
  | 0x47#8 => .command (.ptUnmapRegion ⟨p.a0⟩ p.a1)
  | 0x48#8 => .command .ptEnable
  | op => .rejected (.unassignedOpcode op)

/-- The decoder (R32, R33): a packet with a reserved bit set is illegal whatever its opcode. -/
def decodePacket (p : Packet) : Decoded :=
  if p.rsvdZero then decodeOpcode p else .rejected .reservedBits

/-- The word whose bytes these are, least significant first (R22, R30). Bytes past the eighth do not count. -/
def wordOfBytes : List Byte → Word
  | [] => 0
  | b :: bs => b.setWidth 64 ||| (wordOfBytes bs <<< 8)

/-- Byte `i` of a word: bits `8*i+7 : 8*i` (R22). -/
def byteOfWord (w : Word) (i : Nat) : Byte := w.extractLsb' (8 * i) 8

/-- The 8 bytes of a word, least significant first (R22, R30). -/
def bytesOfWord (w : Word) : List Byte :=
  [byteOfWord w 0, byteOfWord w 1, byteOfWord w 2, byteOfWord w 3,
   byteOfWord w 4, byteOfWord w 5, byteOfWord w 6, byteOfWord w 7]

/-- The packet stored in 40 bytes (R30). -/
def packetOfBytes (bs : List Byte) : Option Packet :=
  if bs.length = 40 then
    some { word0 := wordOfBytes (bs.take 8)
           a0 := wordOfBytes ((bs.drop 8).take 8)
           a1 := wordOfBytes ((bs.drop 16).take 8)
           a2 := wordOfBytes ((bs.drop 24).take 8)
           a3 := wordOfBytes ((bs.drop 32).take 8) }
  else none

/-- The 40 bytes of a packet (R30). -/
def bytesOfPacket (p : Packet) : List Byte :=
  bytesOfWord p.word0 ++ bytesOfWord p.a0 ++ bytesOfWord p.a1 ++ bytesOfWord p.a2 ++ bytesOfWord p.a3

/-- The decoder on bytes: total, rejecting by name. -/
def decodeBytes (bs : List Byte) : Decoded :=
  match packetOfBytes bs with
  | some p => decodePacket p
  | none => .rejected .notFortyBytes

/-- Word `k` of a table row's bits: bits `64*k+63 : 64*k` of `w`, those at and above `nbits` read as 0. -/
def tableWord (nbits w k : Nat) : Word := BitVec.ofNat 64 ((w >>> (64 * k)) % 2 ^ min 64 (nbits - 64 * k))

/-- The 40 bytes of the packet whose word `k` is bits `64*k+63 : 64*k` of `w`, the numbering of
spec/opcode_table.json; the bits at and above `nbits` are 0. -/
def tableWordBytes (nbits w : Nat) : List Byte :=
  bytesOfWord (tableWord nbits w 0) ++ bytesOfWord (tableWord nbits w 1) ++ bytesOfWord (tableWord nbits w 2)
    ++ bytesOfWord (tableWord nbits w 3) ++ bytesOfWord (tableWord nbits w 4)

/-- The host's question: the command the decoder reads from a table row's bits. -/
def decodeTableWord (nbits w : Nat) : Option Instr := (decodeBytes (tableWordBytes nbits w)).toOption

/-- The opcode of a command (R32). -/
def Instr.opcode : Instr → BitVec 8
  | .vaIndex _ _ => 0x10
  | .vaOffset _ => 0x11
  | .addrAdd _ _ => 0x12
  | .addrSub _ _ => 0x13
  | .pteNewPage _ _ => 0x20
  | .pteNewTable _ => 0x21
  | .pteSetFlags _ _ => 0x22
  | .pteSetAddr _ _ => 0x23
  | .pteSetUnused _ => 0x24
  | .pteIsUnused _ => 0x25
  | .pteIsPresent _ => 0x26
  | .ptePhysAddr _ => 0x27
  | .pteFlags _ => 0x28
  | .faInit _ => 0x30
  | .faAlloc => 0x31
  | .faFree _ => 0x32
  | .ptCreate => 0x40
  | .ptAttach _ => 0x41
  | .ptMap _ _ _ => 0x42
  | .ptUnmap _ => 0x43
  | .ptGetL1 _ => 0x44
  | .ptRetrieve _ => 0x45
  | .ptMapRegion _ _ _ _ => 0x46
  | .ptUnmapRegion _ _ => 0x47
  | .ptEnable => 0x48

/-- The operand words a command reads, in operand order (R32, R35). -/
def Instr.operands : Instr → List Word
  | .vaIndex v level => [v.val, level]
  | .vaOffset v => [v.val]
  | .addrAdd a b => [a, b]
  | .addrSub a b => [a, b]
  | .pteNewPage p f => [p.val, f]
  | .pteNewTable p => [p.val]
  | .pteSetFlags e f => [e, f]
  | .pteSetAddr e p => [e, p.val]
  | .pteSetUnused e => [e]
  | .pteIsUnused e => [e]
  | .pteIsPresent e => [e]
  | .ptePhysAddr e => [e]
  | .pteFlags e => [e]
  | .faInit p => [p.val]
  | .faAlloc => []
  | .faFree p => [p.val]
  | .ptCreate => []
  | .ptAttach p => [p.val]
  | .ptMap v p f => [v.val, p.val, f]
  | .ptUnmap v => [v.val]
  | .ptGetL1 v => [v.val]
  | .ptRetrieve v => [v.val]
  | .ptMapRegion v p size f => [v.val, p.val, size, f]
  | .ptUnmapRegion v size => [v.val, size]
  | .ptEnable => []

/-- The encoder (R30, R32): the opcode zero-extended in word 0, the operands the command reads in words 1 to 4, and a
zero word for an operand it does not read (R35). -/
def encode (i : Instr) : Packet :=
  { word0 := i.opcode.setWidth 64
    a0 := i.operands.getD 0 0
    a1 := i.operands.getD 1 0
    a2 := i.operands.getD 2 0
    a3 := i.operands.getD 3 0 }

/-- The 40 bytes of a command's packet (R30). -/
def encodeBytes (i : Instr) : List Byte := bytesOfPacket (encode i)

/-- The mnemonic of a command (R32, R35). -/
def Instr.mnemonic : Instr → String
  | .vaIndex _ _ => "VA_INDEX"
  | .vaOffset _ => "VA_OFFSET"
  | .addrAdd _ _ => "ADDR_ADD"
  | .addrSub _ _ => "ADDR_SUB"
  | .pteNewPage _ _ => "PTE_NEW_PAGE"
  | .pteNewTable _ => "PTE_NEW_TABLE"
  | .pteSetFlags _ _ => "PTE_SET_FLAGS"
  | .pteSetAddr _ _ => "PTE_SET_ADDR"
  | .pteSetUnused _ => "PTE_SET_UNUSED"
  | .pteIsUnused _ => "PTE_IS_UNUSED"
  | .pteIsPresent _ => "PTE_IS_PRESENT"
  | .ptePhysAddr _ => "PTE_PHYS_ADDR"
  | .pteFlags _ => "PTE_FLAGS"
  | .faInit _ => "FA_INIT"
  | .faAlloc => "FA_ALLOC"
  | .faFree _ => "FA_FREE"
  | .ptCreate => "PT_CREATE"
  | .ptAttach _ => "PT_ATTACH"
  | .ptMap _ _ _ => "PT_MAP"
  | .ptUnmap _ => "PT_UNMAP"
  | .ptGetL1 _ => "PT_GET_L1"
  | .ptRetrieve _ => "PT_RETRIEVE"
  | .ptMapRegion _ _ _ _ => "PT_MAP_REGION"
  | .ptUnmapRegion _ _ => "PT_UNMAP_REGION"
  | .ptEnable => "PT_ENABLE"

/-- A word as a hexadecimal literal (R35). -/
def hexLiteral (w : Word) : String := "0x" ++ String.ofList (Nat.toDigits 16 w.toNat)

/-- The written form of a command (R35): the mnemonic, then the operands it reads, separated by commas. -/
def Instr.written (i : Instr) : String :=
  match i.operands with
  | [] => i.mnemonic
  | ops => i.mnemonic ++ " " ++ String.intercalate ", " (ops.map hexLiteral)

end Sys2Proof
end

