-- ==== Sys2Proof/Machine/State.lean ====
section
/-! DEFINITION. The state of the MMB (spec/10_state.md R10 to R19), physical memory (spec/20_memory.md R21), the
response port (spec/30_encoding.md R31), and what the host does between commands (spec/60_exceptions.md R113).

The fields of the block are R10's ten registers and bits. Beside them stand physical memory, which the block reads and
writes (R21), the platform's OPEN parameters (R5), and the model's own fields: the host's queue of actions, the last
response, and the counter of reset draws. -/

namespace Sys2Proof.Machine

/-- The status returned with every command (R100). -/
inductive Status where
  /-- The command did what its rule says. -/
  | ok
  /-- The allocator had no frame. -/
  | none
  /-- The block is, or has just entered, the fatal state. -/
  | fatal
  /-- The packet selects no command. -/
  | illegal
  deriving DecidableEq, Repr

/-- The causes of the fatal state (R104). -/
inductive FatalCause where
  /-- `ORDER`: `FA_INIT` twice, or allocating or freeing before it. -/
  | order
  /-- `NOROOT`: a walker command with no root. -/
  | noroot
  /-- `BUS`: a memory access with a byte at or beyond `MEM_SIZE`. -/
  | bus
  deriving DecidableEq, Repr

/-- The response that ends a command (R31). -/
structure Response where
  /-- The 2-bit status. -/
  status : Status
  /-- The first result word. -/
  r0 : Word
  /-- The second result word. -/
  r1 : Word
  deriving DecidableEq, Repr

/-- Physical memory (R21) as the cells that differ from `Config.unlistedByte`, addresses strictly rising. -/
abbrev Memory := List Host.Cell

/-- Addresses strictly rise along the list, each above `lo` where there is one. -/
def Memory.rising : Option Nat → Memory → Bool
  | _, [] => true
  | lo, (a, _) :: m => (match lo with | some l => decide (l < a) | Option.none => true) && Memory.rising (some a) m

/-- The canonical form: addresses strictly rising, no entry equal to what an unlisted address reads as. -/
def Memory.wf (m : Memory) : Bool := Memory.rising Option.none m && m.all fun c => c.2 != Config.unlistedByte

/-- What the outside world does to the block, between commands (R112, R113, R116, D24, D30; assumption 5). -/
inductive HostAction where
  /-- Issue a command packet. -/
  | command (p : Packet)
  /-- Write bytes of physical memory from `addr` upward. -/
  | write (addr : PhysAddr) (bytes : List Byte)
  /-- The reset event. -/
  | reset
  deriving DecidableEq, Repr

/-- The state of the machine: plain data. -/
structure State where
  /-- `FREE_HEAD` (R14): the most recently freed frame, or `FREE_NIL` = 0. -/
  freeHead : PhysAddr
  /-- `HEAP_TOP` (R14): the next frame of the bump path. -/
  heapTop : PhysAddr
  /-- `HEAP_BASE` (R14): the value given to `FA_INIT`. -/
  heapBase : PhysAddr
  /-- `INITED` (R15). -/
  inited : Bool
  /-- `LOCK` (R15). -/
  lock : Bool
  /-- `PT_ROOT` (R16): the level-4 table the manager owns. -/
  ptRoot : PhysAddr
  /-- `PT_VALID` (R16). -/
  ptValid : Bool
  /-- `ACTIVE_ROOT` (R17): the translation root. -/
  activeRoot : PhysAddr
  /-- `FATAL` (R18). -/
  fatal : Bool
  /-- `FATAL_CAUSE` (R18). -/
  fatalCause : BitVec 2
  /-- Physical memory (R21). -/
  mem : Memory
  /-- The platform's OPEN parameters (R5). No command and no host action changes them. -/
  params : Config.Params
  /-- The model's own: what the host will do next, in order (R12; assumption 5). -/
  inbox : List HostAction
  /-- The model's own: the response of the last packet, none before the first (R31; assumption 6). No command reads it
  (R11). -/
  response : Option Response
  /-- The model's own: how many reset events have drawn a free value for `ACTIVE_ROOT` (assumption 3). -/
  resetDraws : Nat
  deriving DecidableEq, Repr

/-- Why the machine stops. -/
inductive Fault where
  /-- `LockAcquire()` found `LOCK` held. With one agent the command waits for ever (R72, U22: stuck). Raised by the
  commands that take the lock. No run from reset reaches it. Safe: the hardware makes no progress there either
  (assumption 8). -/
  | lockHeld
  deriving DecidableEq, Repr

/-- Why a step has no meaning. -/
inductive Refusal where
  /-- `exec` has no meaning for the command yet. No arm uses it. Safe. -/
  | notModelled (mnemonic : String)
  /-- The host writes a byte at or beyond `MEM_SIZE`, where R21 says there is no memory, and no rule says what becomes
  of it. Raised by the host action, by no command. Safe: the model stops where the spec is silent (assumption 11). -/
  | hostWriteOutsideMemory
  deriving DecidableEq, Repr

/-- The machine right after reset (R19, R116). `ACTIVE_ROOT` and memory are unspecified there: `ACTIVE_ROOT` is 0
(DESIGN CHOICE, assumption 3, unsafe) and memory lists nothing (DESIGN CHOICE, assumption 2, unsafe). -/
def State.reset : State where
  freeHead := ⟨0⟩
  heapTop := ⟨0⟩
  heapBase := ⟨0⟩
  inited := false
  lock := false
  ptRoot := ⟨0⟩
  ptValid := false
  activeRoot := ⟨0⟩
  fatal := false
  fatalCause := 0
  mem := []
  params := Config.resetParams
  inbox := []
  response := Option.none
  resetDraws := 0

end Sys2Proof.Machine
end

