-- ==== Sys2Proof/Machine/Ops.lean ====
section
/-! DEFINITION. The named operations of the block: memory access (spec/20_memory.md R22 to R24), the response
(spec/30_encoding.md R31), entering the fatal state (spec/60_exceptions.md R103), the reset event, which is the only way
out of it (spec/70_reset_and_hazards.md R116), the allocator's lock (spec/42_frame_allocator.md R72), and the result
type of the spec's procedures. -/

namespace Sys2Proof.Machine

/-! ### Bytes of memory -/

/-- The byte at an address: an address with no entry reads as `Config.unlistedByte`. -/
def Memory.read : Memory → Nat → Byte
  | [], _ => Config.unlistedByte
  | (k, b) :: m, a => if k = a then b else Memory.read m a

/-- The memory without an entry for `a`. -/
def Memory.erase (m : Memory) (a : Nat) : Memory := m.filter fun c => c.1 != a

/-- Enter a cell before the first entry whose address is not below it. -/
def Memory.insert : Memory → Nat → Byte → Memory
  | [], a, b => [(a, b)]
  | (k, v) :: m, a, b => if k < a then (k, v) :: Memory.insert m a b else (a, b) :: (k, v) :: m

/-- Write one byte, keeping the canonical form: writing what an unlisted address reads as removes the entry. -/
def Memory.write (m : Memory) (a : Nat) (b : Byte) : Memory :=
  if b = Config.unlistedByte then Memory.erase m a else Memory.insert (Memory.erase m a) a b

/-- The `n` bytes from `a` upward. -/
def Memory.readBytes (m : Memory) (a : Nat) : Nat → List Byte
  | 0 => []
  | n + 1 => Memory.read m a :: Memory.readBytes m (a + 1) n

/-- Write bytes from `a` upward. -/
def Memory.writeBytes (m : Memory) (a : Nat) : List Byte → Memory
  | [] => m
  | b :: bs => Memory.writeBytes (Memory.write m a b) (a + 1) bs

/-- The word at `a`, its least significant byte at `a` (R22, little-endian). -/
def Memory.readWord (m : Memory) (a : PhysAddr) : Word := wordOfBytes (Memory.readBytes m a.val.toNat 8)

/-- Store a word at `a`, its least significant byte at `a` (R22, little-endian). -/
def Memory.writeWord (m : Memory) (a : PhysAddr) (w : Word) : Memory :=
  Memory.writeBytes m a.val.toNat (bytesOfWord w)

/-- Set the `n` bytes from `a` upward to zero: they are dropped from the list, and an unlisted address reads as zero. -/
def Memory.zeroRange (m : Memory) (a n : Nat) : Memory := m.filter fun c => decide (c.1 < a) || decide (a + n ≤ c.1)

/-! ### Codes -/

/-- The 2-bit code of a status (R100). -/
def Status.code : Status → BitVec 2
  | .ok => 0
  | .none => 1
  | .fatal => 2
  | .illegal => 3

/-- The 2-bit code of a cause (R104). -/
def FatalCause.code : FatalCause → BitVec 2
  | .order => 1
  | .noroot => 2
  | .bus => 3

/-! ### Writing one field, `STATE <- v` (R8) -/

/-- Write `FREE_HEAD` (R14). -/
def State.withFreeHead (s : State) (f : PhysAddr) : State := { s with freeHead := f }

/-- Write `HEAP_TOP` (R14). -/
def State.withHeapTop (s : State) (f : PhysAddr) : State := { s with heapTop := f }

/-- Write `HEAP_BASE`, `HEAP_TOP` and `INITED`, as `FA_INIT` does (R69). -/
def State.initialised (s : State) (f : PhysAddr) : State := { s with heapBase := f, heapTop := f, inited := true }

/-- Write `LOCK` (R15). -/
def State.withLock (s : State) (b : Bool) : State := { s with lock := b }

/-- Write `PT_ROOT` and set `PT_VALID` (R16). -/
def State.withRoot (s : State) (r : PhysAddr) : State := { s with ptRoot := r, ptValid := true }

/-- Write `ACTIVE_ROOT` (R17). -/
def State.withActiveRoot (s : State) (r : PhysAddr) : State := { s with activeRoot := r }

/-- Write physical memory (R21). -/
def State.withMem (s : State) (m : Memory) : State := { s with mem := m }

/-- Write the host's queue (the model's own). -/
def State.withInbox (s : State) (q : List HostAction) : State := { s with inbox := q }

/-! ### Responding, the fatal state, reset -/

/-- End a command with a response (R8 `return`, R31). -/
def State.respond (s : State) (st : Status) (r0 r1 : Word) : State := { s with response := some ⟨st, r0, r1⟩ }

/-- Taking the block's one exception, `raise Fatal(cause)` (R103): `FATAL`, `FATAL_CAUSE` and `LOCK` are written, the
command ends with `(FATAL, cause, 0)`, and what it wrote before stays written. R109: no state is saved, no mode changes
and control goes nowhere. -/
def State.raiseFatal (s : State) (c : FatalCause) : State :=
  { s with fatal := true, fatalCause := c.code, lock := false,
           response := some ⟨.fatal, c.code.setWidth 64, 0⟩ }

/-- The response of a block that is already fatal (R36 step 1, R103): nothing else happens. -/
def State.respondFatal (s : State) : State := s.respond .fatal (s.fatalCause.setWidth 64) 0

/-- The reset event (R116): every state field at its reset value, `ACTIVE_ROOT` unspecified (a free value, assumption 3),
physical memory untouched. R110: there is no other return from the fatal state. The platform's parameters and the
host's queue are no state of the block; the response port is emptied (assumption 6). -/
def State.applyReset (s : State) : State :=
  { s with freeHead := ⟨0⟩, heapTop := ⟨0⟩, heapBase := ⟨0⟩, inited := false, lock := false,
           ptRoot := ⟨0⟩, ptValid := false, activeRoot := ⟨Config.activeRootAfterReset s.resetDraws⟩,
           fatal := false, fatalCause := 0, response := Option.none, resetDraws := s.resetDraws + 1 }

/-! ### Procedures -/

/-- How a procedure of the spec's pseudocode ends, and the state it leaves. -/
inductive Eff (α : Type) where
  /-- It yields a value. -/
  | done (a : α) (s : State)
  /-- It does `raise Fatal(cause)` in this state. -/
  | raised (c : FatalCause) (s : State)
  /-- It waits for ever at `LockAcquire()` (R72). -/
  | hung
  deriving DecidableEq, Repr

/-- Go on with the value and the state, unless the procedure ended otherwise (R108: the first condition met ends it). -/
def Eff.bind {α β : Type} (e : Eff α) (k : α → State → Eff β) : Eff β :=
  match e with
  | .done a s => k a s
  | .raised c s => .raised c s
  | .hung => .hung

/-- End the command: with its response, in the fatal state, or never. -/
def Eff.finish (e : Eff Response) : Host.Outcome State Fault Refusal :=
  match e with
  | .done r s => .next (s.respond r.status r.r0 r.r1)
  | .raised c s => .next (s.raiseFatal c)
  | .hung => .fault .lockHeld

/-- End a command that runs no procedure with status `OK` (R31: a result the rule does not mention is 0). -/
def answerOk (s : State) (r0 r1 : Word) : Host.Outcome State Fault Refusal := .next (s.respond .ok r0 r1)

/-! ### Memory access, bounds checked -/

/-- Every byte of the `n` from `a` lies below `MEM_SIZE`, and the last does not wrap past 2^64 (R22, R24). -/
def State.inMemory (s : State) (a : PhysAddr) (n : Nat) : Bool :=
  decide (a.val.toNat + n ≤ s.params.memSize) && decide (a.val.toNat + n ≤ 2 ^ 64)

/-- `MemRead(addr, 8)` (R22). No alignment is checked (R23). -/
def memRead (a : PhysAddr) (s : State) : Eff Word :=
  if s.inMemory a 8 then .done (s.mem.readWord a) s else .raised .bus s

/-- `MemWrite(addr, 8, v)` (R22). No alignment is checked (R23). -/
def memWrite (a : PhysAddr) (w : Word) (s : State) : Eff Unit :=
  if s.inMemory a 8 then .done () (s.withMem (s.mem.writeWord a w)) else .raised .bus s

/-- `ZeroFrame(f)` (R24): the whole-frame effect, bounds checked for the whole frame first. -/
def zeroFrame (f : PhysAddr) (s : State) : Eff Unit :=
  if s.inMemory f Config.frameSize then
    .done () (s.withMem (s.mem.zeroRange f.val.toNat Config.frameSize))
  else .raised .bus s

/-! ### The lock -/

/-- `LockAcquire()` (R72): with one agent, a lock found held is never released. -/
def lockAcquire (s : State) : Eff Unit :=
  if s.lock then .hung else .done () (s.withLock true)

/-- `LockRelease()` (R72). -/
def lockRelease (s : State) : State := s.withLock false

end Sys2Proof.Machine
end

