-- ==== Sys2Proof/Machine/Operands.lean ====
section
/-! DEFINITION. What the commands compute from their operands: the split of a virtual address
(spec/40_address_types.md R37, R39), slot addresses (spec/20_memory.md R25), and the page count and the page steps of a
region (spec/43_page_table_walker.md R84, R85). -/

namespace Sys2Proof.Machine

/-- A table level, 4 the top and 1 the leaf (R5 `LEVELS`, R9). -/
inductive Level where
  /-- The leaf tables, whose entries map pages. -/
  | l1
  /-- Level 2. -/
  | l2
  /-- Level 3. -/
  | l3
  /-- The top table. -/
  | l4
  deriving DecidableEq, Repr

/-- The level a `VA_INDEX` operand names: all 64 bits are compared (R38). -/
def levelOfWord (w : Word) : Option Level :=
  if w = 1 then some .l1
  else if w = 2 then some .l2
  else if w = 3 then some .l3
  else if w = 4 then some .l4
  else none

/-- The lowest bit of a level's index field, `12 + 9 * (L - 1)` (R37). -/
def Level.shift : Level → Nat
  | .l1 => 12
  | .l2 => 21
  | .l3 => 30
  | .l4 => 39

/-- `index(v, L)` (R37): a 9-bit field, below 512. -/
def index (v : VirtAddr) (l : Level) : BitVec 9 := v.val.extractLsb' l.shift 9

/-- `offset(v)` (R39): bits 11 to 0. -/
def offset (v : VirtAddr) : Word := v.val &&& 0xFFF

/-- `slot(t, i) = t + 8 * i`, modulo 2^64 (R25, R41). -/
def slot (t : PhysAddr) (i : BitVec 9) : PhysAddr := t.add (8 * i.setWidth 64)

/-- Pages of a region: `(size >> 12) + (1 if (size & 0xFFF) != 0 else 0)` (R84, R85). -/
def pageCount (size : Word) : Word := (size >>> 12) + (if size &&& 0xFFF = 0 then 0 else 1)

/-- `off = k * 4096`, modulo 2^64 (R84). -/
def pageOffset (k : Nat) : Word := BitVec.ofNat 64 (k * Config.frameSize)

end Sys2Proof.Machine
end

