-- ==== Sys2Proof/Machine/AddressTypes.lean ====
section
/-! DEFINITION. The address-type commands (spec/40_address_types.md R38 to R43): they read no state, access no memory,
and their status is always `OK`. -/

namespace Sys2Proof.Machine

/-- `VA_INDEX` (R38). A level outside 1 to 4 returns the sentinel, a free value (assumption 4). -/
def execVaIndex (v : VirtAddr) (level : Word) (s : State) : Host.Outcome State Fault Refusal :=
  match levelOfWord level with
  | some l => answerOk s ((index v l).setWidth 64) 0
  | none => answerOk s Config.indexSentinel 0

/-- `VA_OFFSET` (R40). -/
def execVaOffset (v : VirtAddr) (s : State) : Host.Outcome State Fault Refusal := answerOk s (offset v) 0

/-- `ADDR_ADD` (R42): modulo 2^64. -/
def execAddrAdd (addr bytes : Word) (s : State) : Host.Outcome State Fault Refusal := answerOk s (addr + bytes) 0

/-- `ADDR_SUB` (R43): modulo 2^64. -/
def execAddrSub (addr bytes : Word) (s : State) : Host.Outcome State Fault Refusal := answerOk s (addr - bytes) 0

end Sys2Proof.Machine
end

