-- ==== Sys2Proof/Machine/FrameAllocator.lean ====
section
/-! DEFINITION. The physical frame allocator (spec/42_frame_allocator.md R65 to R72): the procedures `Alloc()` and
`Free(f)`, which the walker calls too, and the commands `FA_INIT`, `FA_ALLOC`, `FA_FREE`. -/

namespace Sys2Proof.Machine

/-- `FREE_NIL`, the free-list terminator (R5, R26). -/
def freeNil : PhysAddr := ⟨0⟩

/-- The free-list path of `Alloc()` (R66): pop the head; the frame is not zeroed. -/
def allocPop (s : State) : Eff (Option PhysAddr) :=
  (memRead s.freeHead s).bind fun next s' =>
    .done (some s.freeHead) (lockRelease (s'.withFreeHead ⟨next⟩))

/-- The bump path of `Alloc()` (R66): advance the cursor, then zero the frame. -/
def allocBump (s : State) : Eff (Option PhysAddr) :=
  (zeroFrame s.heapTop (s.withHeapTop (s.heapTop.add (BitVec.ofNat 64 Config.frameSize)))).bind fun _ s' =>
    .done (some s.heapTop) (lockRelease s')

/-- The bump path has no frame left (R67): `HEAP_TOP + 4096 > HEAP_LIMIT` on unbounded integers. -/
def State.heapExhausted (s : State) : Bool := decide (s.params.heapLimit < s.heapTop.val.toNat + Config.frameSize)

/-- `Alloc()` (R66). -/
def alloc (s : State) : Eff (Option PhysAddr) :=
  if s.inited then
    (lockAcquire s).bind fun _ s =>
      if s.freeHead ≠ freeNil then allocPop s
      else if s.heapExhausted then .done none (lockRelease s)
      else allocBump s
  else .raised .order s

/-- `Free(f)` (R68): it checks nothing about `f`. -/
def free (f : PhysAddr) (s : State) : Eff Unit :=
  if s.inited then
    (lockAcquire s).bind fun _ s =>
      (memWrite f s.freeHead.val s).bind fun _ s =>
        .done () (lockRelease (s.withFreeHead f))
  else .raised .order s

/-- `FA_INIT` (R69): it does not write `FREE_HEAD` and accesses no memory. -/
def execFaInit (firstFree : PhysAddr) (s : State) : Host.Outcome State Fault Refusal :=
  Eff.finish <|
    if s.inited then .raised .order s
    else (lockAcquire s).bind fun _ s =>
      .done ⟨.ok, 0, 0⟩ (lockRelease (s.initialised firstFree))

/-- `FA_ALLOC` (R70). -/
def execFaAlloc (s : State) : Host.Outcome State Fault Refusal :=
  Eff.finish <| (alloc s).bind fun f s =>
    match f with
    | none => .done ⟨.none, 0, 0⟩ s
    | some f => .done ⟨.ok, f.val, 0⟩ s

/-- `FA_FREE` (R71). -/
def execFaFree (frame : PhysAddr) (s : State) : Host.Outcome State Fault Refusal :=
  Eff.finish <| (free frame s).bind fun _ s => .done ⟨.ok, 0, 0⟩ s

end Sys2Proof.Machine
end

