-- ==== Sys2Proof/Machine/Flags.lean ====
section
/-! DEFINITION. The page-table entry and its flags (spec/41_pte_codec.md R46 to R54). The MMB has no condition codes
(spec/10_state.md R13): a flag here is a bit of an entry, data the block stores. -/

namespace Sys2Proof.Machine

/-- `ADDR_MASK`, the address field, bits 51:12 (R5, R46). -/
def addrMask : Word := 0x000FFFFFFFFFF000

/-- `FLAG_MASK`, every bit not in `ADDR_MASK` (R5, R48). -/
def flagMask : Word := 0xFFF0000000000FFF

/-- The named flags (R47). -/
inductive Flag where
  /-- `P`, present. -/
  | present
  /-- `W`, writable. -/
  | writable
  /-- `U`, user-accessible. -/
  | user
  /-- `WT`, write-through. -/
  | writeThrough
  /-- `NC`, no-cache. -/
  | noCache
  /-- `A`, accessed. -/
  | accessed
  /-- `D`, dirty. -/
  | dirty
  /-- `HP`, huge-page. -/
  | hugePage
  /-- `G`, global. -/
  | global
  /-- `NX`, no-execute. -/
  | noExecute
  deriving DecidableEq, Repr

/-- The value of a named flag (R47). -/
def Flag.value : Flag → FlagWord
  | .present => 0x001
  | .writable => 0x002
  | .user => 0x004
  | .writeThrough => 0x008
  | .noCache => 0x010
  | .accessed => 0x020
  | .dirty => 0x040
  | .hugePage => 0x080
  | .global => 0x100
  | .noExecute => 0x8000000000000000

/-- `NAMED_FLAGS` (R48): the ten flags the source names. The other fourteen flag-side bits are stored alike (D6). -/
def namedFlags : FlagWord := 0x80000000000001FF

/-- `TABLE_FLAGS = F_PRESENT | F_WRITABLE` (R5, R50). -/
def tableFlags : FlagWord := Flag.present.value ||| Flag.writable.value

/-- `phys_addr(e)` (R49). -/
def physAddr (e : Pte) : PhysAddr := ⟨e &&& addrMask⟩

/-- `flags(e)` (R49). -/
def flagsOf (e : Pte) : FlagWord := e &&& flagMask

/-- `new_page_entry(p, f)` (R50): operand bits that do not fit are dropped. -/
def newPageEntry (p : PhysAddr) (f : FlagWord) : Pte := (p.val &&& addrMask) ||| (f &&& flagMask)

/-- `new_table_entry(p)` (R50). -/
def newTableEntry (p : PhysAddr) : Pte := (p.val &&& addrMask) ||| tableFlags

/-- `set_flags(e, f)` (R51): the old flags are discarded, not merged. -/
def setFlags (e : Pte) (f : FlagWord) : Pte := (e &&& addrMask) ||| (f &&& flagMask)

/-- `set_phys_addr(e, p)` (R52). -/
def setPhysAddr (e : Pte) (p : PhysAddr) : Pte := (e &&& flagMask) ||| (p.val &&& addrMask)

/-- `is_present(e)` (R53): bit 0. -/
def isPresent (e : Pte) : Bool := e.getLsbD 0

/-- `is_unused(e)` (R54): all 64 bits are compared. -/
def isUnused (e : Pte) : Bool := e == 0

/-- `set_unused(e)` (R54). -/
def setUnused (_ : Pte) : Pte := 0

/-- The refresh of an existing table entry, `set_flags(e, flags(e) | F_PRESENT | F_WRITABLE)` (R76). -/
def refreshTable (e : Pte) : Pte := setFlags e (flagsOf e ||| Flag.present.value ||| Flag.writable.value)

/-- A test's answer as a result word: 1 or 0 (R60, R61). -/
def boolWord (b : Bool) : Word := if b then 1 else 0

end Sys2Proof.Machine
end

