-- ==== Sys2Proof/Machine/PageTableWalker.lean ====
section
/-! DEFINITION. The page-table walker (spec/43_page_table_walker.md R75 to R86): the creating descent, the read-only
walk, and the `PT_` commands. -/

namespace Sys2Proof.Machine

/-- `RequireRoot()` (R75). -/
def requireRoot (s : State) : Eff Unit := if s.ptValid then .done () s else .raised .noroot s

/-- The interior levels in the order a walk visits them (R12, R76, R77). -/
def interiorLevels : List Level := [.l4, .l3, .l2]

/-- The tree grows at an unused entry (R76): a fresh frame, zeroed by the walker whichever path supplied it, then the
entry that links it. Yields the new entry, or none when `Alloc()` yields `None` (nothing is undone). -/
def growTable (slotAddr : PhysAddr) (s : State) : Eff (Option Pte) :=
  (alloc s).bind fun n s =>
    match n with
    | none => .done none s
    | some n =>
      (zeroFrame n s).bind fun _ s =>
        (memWrite slotAddr (newTableEntry n) s).bind fun _ s => .done (some (newTableEntry n)) s

/-- An existing table is reused, its entry rewritten with present and writable (R76 (b)): the write-back is
unconditional. -/
def reuseTable (slotAddr : PhysAddr) (e : Pte) (s : State) : Eff (Option Pte) :=
  (memWrite slotAddr (refreshTable e) s).bind fun _ s => .done (some (refreshTable e)) s

/-- One level of the creating descent (R76): the table at the level below, or none on exhaustion. -/
def descendLevel (v : VirtAddr) (l : Level) (t : PhysAddr) (s : State) : Eff (Option PhysAddr) :=
  (memRead (slot t (index v l)) s).bind fun e s =>
    (if isUnused e then growTable (slot t (index v l)) s else reuseTable (slot t (index v l)) e s).bind fun e s =>
      .done (e.map physAddr) s

/-- The creating descent over a list of levels (R76). -/
def descend (v : VirtAddr) : List Level → PhysAddr → State → Eff (Option PhysAddr)
  | [], t, s => .done (some t) s
  | l :: ls, t, s =>
    (descendLevel v l t s).bind fun t s =>
      match t with
      | none => .done none s
      | some t => descend v ls t s

/-- `MapOne(v, p, f)` (R76), yielding `OK` or `NONE`. The level-1 slot is written without being read. -/
def mapOne (v : VirtAddr) (p : PhysAddr) (f : FlagWord) (s : State) : Eff Status :=
  (descend v interiorLevels s.ptRoot s).bind fun t s =>
    match t with
    | none => .done .none s
    | some t => (memWrite (slot t (index v .l1)) (newPageEntry p f) s).bind fun _ s => .done .ok s

/-- The read-only walk over a list of levels (R77): no test of any entry. -/
def walk (v : VirtAddr) : List Level → PhysAddr → State → Eff PhysAddr
  | [], t, s => .done t s
  | l :: ls, t, s => (memRead (slot t (index v l)) s).bind fun e s => walk v ls (physAddr e) s

/-- `FindL1(v)` (R77): the slot address of the level-1 entry. -/
def findL1 (v : VirtAddr) (s : State) : Eff PhysAddr :=
  (walk v interiorLevels s.ptRoot s).bind fun t s => .done (slot t (index v .l1)) s

/-- Clear the level-1 entry of one page (R81, R85): zero is written without reading the entry. -/
def unmapOne (v : VirtAddr) (s : State) : Eff Unit :=
  (findL1 v s).bind fun a s => memWrite a (setUnused 0) s

/-- The loop of `PT_MAP_REGION` (R84): `n` pages are left and `k` are done; stop at the first `NONE`. -/
def mapPages (v : VirtAddr) (p : PhysAddr) (f : FlagWord) : Nat → Nat → State → Eff Response
  | 0, k, s => .done ⟨.ok, BitVec.ofNat 64 k, 0⟩ s
  | n + 1, k, s =>
    (mapOne (v.add (pageOffset k)) (p.add (pageOffset k)) f s).bind fun st s =>
      if st = .none then .done ⟨.none, BitVec.ofNat 64 k, 0⟩ s else mapPages v p f n (k + 1) s

/-- The loop of `PT_UNMAP_REGION` (R85): `n` pages are left and `k` are done. -/
def unmapPages (v : VirtAddr) : Nat → Nat → State → Eff Response
  | 0, k, s => .done ⟨.ok, BitVec.ofNat 64 k, 0⟩ s
  | n + 1, k, s => (unmapOne (v.add (pageOffset k)) s).bind fun _ s => unmapPages v n (k + 1) s

/-- `PT_CREATE` (R78). -/
def execPtCreate (s : State) : Host.Outcome State Fault Refusal :=
  Eff.finish <| (alloc s).bind fun n s =>
    match n with
    | none => .done ⟨.none, 0, 0⟩ s
    | some n => (zeroFrame n s).bind fun _ s => .done ⟨.ok, n.val, 0⟩ (s.withRoot n)

/-- `PT_ATTACH` (R79): no memory access, no check. -/
def execPtAttach (root : PhysAddr) (s : State) : Host.Outcome State Fault Refusal :=
  answerOk (s.withRoot root) 0 0

/-- `PT_MAP` (R80). -/
def execPtMap (v : VirtAddr) (p : PhysAddr) (f : FlagWord) (s : State) : Host.Outcome State Fault Refusal :=
  Eff.finish <| (requireRoot s).bind fun _ s => (mapOne v p f s).bind fun st s => .done ⟨st, 0, 0⟩ s

/-- `PT_UNMAP` (R81). -/
def execPtUnmap (v : VirtAddr) (s : State) : Host.Outcome State Fault Refusal :=
  Eff.finish <| (requireRoot s).bind fun _ s => (unmapOne v s).bind fun _ s => .done ⟨.ok, 0, 0⟩ s

/-- `PT_GET_L1` (R82). -/
def execPtGetL1 (v : VirtAddr) (s : State) : Host.Outcome State Fault Refusal :=
  Eff.finish <| (requireRoot s).bind fun _ s => (findL1 v s).bind fun a s =>
    (memRead a s).bind fun e s => .done ⟨.ok, e, a.val⟩ s

/-- `PT_RETRIEVE` (R83): the page offset is not added. -/
def execPtRetrieve (v : VirtAddr) (s : State) : Host.Outcome State Fault Refusal :=
  Eff.finish <| (requireRoot s).bind fun _ s => (findL1 v s).bind fun a s =>
    (memRead a s).bind fun e s => .done ⟨.ok, (physAddr e).val, 0⟩ s

/-- `PT_MAP_REGION` (R84). -/
def execPtMapRegion (v : VirtAddr) (p : PhysAddr) (size : Word) (f : FlagWord) (s : State) :
    Host.Outcome State Fault Refusal :=
  Eff.finish <| (requireRoot s).bind fun _ s => mapPages v p f (pageCount size).toNat 0 s

/-- `PT_UNMAP_REGION` (R85). -/
def execPtUnmapRegion (v : VirtAddr) (size : Word) (s : State) : Host.Outcome State Fault Refusal :=
  Eff.finish <| (requireRoot s).bind fun _ s => unmapPages v (pageCount size).toNat 0 s

/-- `PT_ENABLE` (R86): no memory access, and the table is not inspected. -/
def execPtEnable (s : State) : Host.Outcome State Fault Refusal :=
  Eff.finish <| (requireRoot s).bind fun _ s => .done ⟨.ok, 0, 0⟩ (s.withActiveRoot s.ptRoot)

end Sys2Proof.Machine
end

