-- ==== Sys2Proof/Machine/PteCodec.lean ====
section
/-! DEFINITION. The page-table-entry codec commands (spec/41_pte_codec.md R55 to R63): they read no state, access no
memory, and their status is always `OK`. -/

namespace Sys2Proof.Machine

/-- `PTE_NEW_PAGE` (R55). -/
def execPteNewPage (p : PhysAddr) (f : FlagWord) (s : State) : Host.Outcome State Fault Refusal :=
  answerOk s (newPageEntry p f) 0

/-- `PTE_NEW_TABLE` (R56). -/
def execPteNewTable (p : PhysAddr) (s : State) : Host.Outcome State Fault Refusal := answerOk s (newTableEntry p) 0

/-- `PTE_SET_FLAGS` (R57). -/
def execPteSetFlags (e : Pte) (f : FlagWord) (s : State) : Host.Outcome State Fault Refusal :=
  answerOk s (setFlags e f) 0

/-- `PTE_SET_ADDR` (R58). -/
def execPteSetAddr (e : Pte) (p : PhysAddr) (s : State) : Host.Outcome State Fault Refusal :=
  answerOk s (setPhysAddr e p) 0

/-- `PTE_SET_UNUSED` (R59). -/
def execPteSetUnused (e : Pte) (s : State) : Host.Outcome State Fault Refusal := answerOk s (setUnused e) 0

/-- `PTE_IS_UNUSED` (R60). -/
def execPteIsUnused (e : Pte) (s : State) : Host.Outcome State Fault Refusal := answerOk s (boolWord (isUnused e)) 0

/-- `PTE_IS_PRESENT` (R61). -/
def execPteIsPresent (e : Pte) (s : State) : Host.Outcome State Fault Refusal := answerOk s (boolWord (isPresent e)) 0

/-- `PTE_PHYS_ADDR` (R62). -/
def execPtePhysAddr (e : Pte) (s : State) : Host.Outcome State Fault Refusal := answerOk s (physAddr e).val 0

/-- `PTE_FLAGS` (R63). -/
def execPteFlags (e : Pte) (s : State) : Host.Outcome State Fault Refusal := answerOk s (flagsOf e) 0

end Sys2Proof.Machine
end

