-- ==== Sys2Proof/Machine/Dispatch.lean ====
section
/-! DEFINITION. One arm per command (spec/30_encoding.md R32, R36 step 3): its rule, executed. -/

namespace Sys2Proof.Machine

def exec (i : Instr) (s : State) : Host.Outcome State Fault Refusal :=
  match i with
  | .vaIndex v level => Sys2Proof.Machine.execVaIndex v level s
  | .vaOffset v => Sys2Proof.Machine.execVaOffset v s
  | .addrAdd addr bytes => Sys2Proof.Machine.execAddrAdd addr bytes s
  | .addrSub addr bytes => Sys2Proof.Machine.execAddrSub addr bytes s
  | .pteNewPage p f => Sys2Proof.Machine.execPteNewPage p f s
  | .pteNewTable p => Sys2Proof.Machine.execPteNewTable p s
  | .pteSetFlags e f => Sys2Proof.Machine.execPteSetFlags e f s
  | .pteSetAddr e p => Sys2Proof.Machine.execPteSetAddr e p s
  | .pteSetUnused e => Sys2Proof.Machine.execPteSetUnused e s
  | .pteIsUnused e => Sys2Proof.Machine.execPteIsUnused e s
  | .pteIsPresent e => Sys2Proof.Machine.execPteIsPresent e s
  | .ptePhysAddr e => Sys2Proof.Machine.execPtePhysAddr e s
  | .pteFlags e => Sys2Proof.Machine.execPteFlags e s
  | .faInit firstFree => Sys2Proof.Machine.execFaInit firstFree s
  | .faAlloc => Sys2Proof.Machine.execFaAlloc s
  | .faFree frame => Sys2Proof.Machine.execFaFree frame s
  | .ptCreate => Sys2Proof.Machine.execPtCreate s
  | .ptAttach root => Sys2Proof.Machine.execPtAttach root s
  | .ptMap v p f => Sys2Proof.Machine.execPtMap v p f s
  | .ptUnmap v => Sys2Proof.Machine.execPtUnmap v s
  | .ptGetL1 v => Sys2Proof.Machine.execPtGetL1 v s
  | .ptRetrieve v => Sys2Proof.Machine.execPtRetrieve v s
  | .ptMapRegion v p size f => Sys2Proof.Machine.execPtMapRegion v p size f s
  | .ptUnmapRegion v size => Sys2Proof.Machine.execPtUnmapRegion v size s
  | .ptEnable => Sys2Proof.Machine.execPtEnable s

end Sys2Proof.Machine
end

