-- ==== Sys2Proof/Machine/Processing.lean ====
section
/-! DEFINITION. How a packet is processed (spec/30_encoding.md R36), and what the host's other actions do between
commands (spec/60_exceptions.md R113, spec/70_reset_and_hazards.md R116). -/

namespace Sys2Proof.Machine

/-- Process one packet (R36, R108): first the sticky fatal state, even for an illegal packet; then legality; then the
command's rule. -/
def processPacket (p : Packet) (s : State) : Host.Outcome State Fault Refusal :=
  if s.fatal then .next s.respondFatal
  else match decodePacket p with
    | .command i => exec i s
    | .rejected _ => .next (s.respond .illegal 0 0)

/-- The host writes physical memory between commands (R113, D30): the block does not notice. -/
def hostWrite (a : PhysAddr) (bytes : List Byte) (s : State) : Host.Outcome State Fault Refusal :=
  if s.inMemory a bytes.length then .next (s.withMem (s.mem.writeBytes a.val.toNat bytes))
  else .refused .hostWriteOutsideMemory

/-- What one action of the host does. -/
def perform (act : HostAction) (s : State) : Host.Outcome State Fault Refusal :=
  match act with
  | .command p => processPacket p s
  | .write a bytes => hostWrite a bytes s
  | .reset => .next s.applyReset

/-- The next action of the host, in the order of issue (R12). With none the block waits for its next packet (R116). -/
def runNext (s : State) : Host.Outcome State Fault Refusal :=
  match s.inbox with
  | [] => .next s
  | act :: rest => perform act (s.withInbox rest)

/-- Put the packet of a table row's bits in front of the host's queue, where the next step takes it. -/
def issueTableWord (s : State) (nbits w : Nat) : State :=
  match packetOfBytes (tableWordBytes nbits w) with
  | some p => s.withInbox (.command p :: s.inbox)
  | none => s

end Sys2Proof.Machine
end

