-- ==== Sys2Proof/Machine/Consumer.lean ====
section
/-! DEFINITION. What `ACTIVE_ROOT` and the tables mean to their reader (spec/43_page_table_walker.md R87). The consuming
memory-management unit is outside the block (spec/00_scope.md R4); no step calls these functions. They give a mapping
its meaning in claims. PRESUMED (assumption 9): the spec marks the formula as general knowledge. -/

namespace Sys2Proof.Machine

/-- The consumer's descent: every entry on the path must lie in memory and be present (R87). -/
def consumerWalk (v : VirtAddr) (s : State) : List Level → PhysAddr → Option PhysAddr
  | [], t => some t
  | l :: ls, t =>
    if s.inMemory (slot t (index v l)) 8 && isPresent (s.mem.readWord (slot t (index v l))) then
      consumerWalk v s ls (physAddr (s.mem.readWord (slot t (index v l))))
    else none

/-- The physical byte a virtual address reaches through the active table, `phys_addr(e1) + offset(v)`, when its four
entries are present (R87). -/
def consumerTranslate (v : VirtAddr) (s : State) : Option PhysAddr :=
  (consumerWalk v s [.l4, .l3, .l2, .l1] s.activeRoot).map fun frame => frame.add (offset v)

end Sys2Proof.Machine
end

