-- ==== Sys2Proof/Safety.lean ====
section
/-! DEFINITION. The terms claims use: the path of a virtual address through the tables, the free list of
spec/10_state.md R20, the invariant every step keeps, the preconditions the host must meet
(spec/70_reset_and_hazards.md R121), and a run that has not entered the fatal state (R120). No step calls these. -/

namespace Sys2Proof.Machine

/-! ### Ranges of memory -/

/-- The `n` bytes from `a` and the `k` bytes from `b` share no byte. -/
def apart (a : PhysAddr) (n : Nat) (b : PhysAddr) (k : Nat) : Bool :=
  decide (a.val.toNat + n ≤ b.val.toNat) || decide (b.val.toNat + k ≤ a.val.toNat)

/-- `x` is none of the `n` bytes from `a`. -/
def outside (x : Nat) (a : PhysAddr) (n : Nat) : Prop := x < a.val.toNat ∨ a.val.toNat + n ≤ x

/-! ### The path of a virtual address (R25, R77), bounds aside -/

/-- The table reached from `t` by following the entries of `v` through a list of levels. -/
def pathTable (m : Memory) (v : VirtAddr) : List Level → PhysAddr → PhysAddr
  | [], t => t
  | l :: ls, t => pathTable m v ls (physAddr (m.readWord (slot t (index v l))))

/-- The levels a walk has passed when it is at a level's table. -/
def Level.above : Level → List Level
  | .l4 => []
  | .l3 => [.l4]
  | .l2 => [.l4, .l3]
  | .l1 => [.l4, .l3, .l2]

/-- The base of the level-`l` table on the path of `v` from `PT_ROOT`. -/
def State.pathTableAt (s : State) (v : VirtAddr) (l : Level) : PhysAddr := pathTable s.mem v l.above s.ptRoot

/-- The slot of `v` in the level-`l` table on its path. -/
def State.pathSlot (s : State) (v : VirtAddr) (l : Level) : PhysAddr := slot (s.pathTableAt v l) (index v l)

/-- The entry of `v` in the level-`l` table on its path. -/
def State.pathEntry (s : State) (v : VirtAddr) (l : Level) : Pte := s.mem.readWord (s.pathSlot v l)

/-- A root exists and the slots of `v` at levels 4, 3, 2 and 1 lie in physical memory. -/
def State.pathInMemory (s : State) (v : VirtAddr) : Bool :=
  s.ptValid && s.inMemory (s.pathSlot v .l4) 8 && s.inMemory (s.pathSlot v .l3) 8
    && s.inMemory (s.pathSlot v .l2) 8 && s.inMemory (s.pathSlot v .l1) 8

/-- The interior tables of `v` exist (P10): its entries at levels 4, 3 and 2 are in use. -/
def State.interiorExists (s : State) (v : VirtAddr) : Bool :=
  !isUnused (s.pathEntry v .l4) && !isUnused (s.pathEntry v .l3) && !isUnused (s.pathEntry v .l2)

/-- The four slots of `v` share no byte. -/
def State.pathApart (s : State) (v : VirtAddr) : Bool :=
  apart (s.pathSlot v .l4) 8 (s.pathSlot v .l3) 8 && apart (s.pathSlot v .l4) 8 (s.pathSlot v .l2) 8
    && apart (s.pathSlot v .l4) 8 (s.pathSlot v .l1) 8 && apart (s.pathSlot v .l3) 8 (s.pathSlot v .l2) 8
    && apart (s.pathSlot v .l3) 8 (s.pathSlot v .l1) 8 && apart (s.pathSlot v .l2) 8 (s.pathSlot v .l1) 8

/-- `v` can be mapped without growing the tree: its path lies in memory, exists, and does not run over itself. -/
def State.pathReady (s : State) (v : VirtAddr) : Bool := s.pathInMemory v && s.interiorExists v && s.pathApart v

/-- The level-`l` table of `v` exists: every entry on the way to it is in use. -/
def State.reached (s : State) (v : VirtAddr) (l : Level) : Prop := ∀ l' ∈ l.above, isUnused (s.pathEntry v l') = false

/-- The slots of `v` at the levels of a list share no byte, pair by pair. -/
def State.slotsApart (s : State) (v : VirtAddr) (ls : List Level) : Prop :=
  ls.Pairwise fun l l' => apart (s.pathSlot v l) 8 (s.pathSlot v l') 8 = true

/-- Memory with present and writable added to the entries of `v` above level `l`, top first: what a map has written when
it comes to that level by tables that exist (R76). -/
def State.refreshedAbove (s : State) (v : VirtAddr) (l : Level) : Memory :=
  l.above.foldl (fun m l' => m.writeWord (s.pathSlot v l') (s.pathEntry v l' ||| 3)) s.mem

/-- Two pages share slots of interior tables only: a slot of `v` and a slot of `w` are the same slot of the same
interior level, or share no byte. -/
def State.pathsSeparate (s : State) (v w : VirtAddr) : Prop :=
  ∀ l l' : Level, (l = l' ∧ l ≠ .l1 ∧ s.pathSlot v l = s.pathSlot w l') ∨
    apart (s.pathSlot v l) 8 (s.pathSlot w l') 8 = true

/-! ### The free list (R20, R26, R65) -/

/-- Starting at `head` and following the first word of each frame, the free list is exactly `fs`, most recently freed
first, its nodes in memory. -/
def FreeChain (s : State) (head : PhysAddr) : List PhysAddr → Prop
  | [] => head = freeNil
  | f :: fs => head = f ∧ f ≠ freeNil ∧ s.inMemory f 8 = true ∧ FreeChain s ⟨s.mem.readWord f⟩ fs

/-- The allocator is initialised, its lock is free, and its free list is `fs`. -/
def FreeList (s : State) (fs : List PhysAddr) : Prop :=
  s.inited = true ∧ s.lock = false ∧ FreeChain s s.freeHead fs

/-- The tables on the path of `v` and the frames the allocator may hand out are frames of their own, as P3 to P7 and P12
keep them: page-aligned, below 2^52, in memory, and none of them another. -/
structure MapPlaced (s : State) (v : VirtAddr) (fs : List PhysAddr) : Prop where
  /-- The manager has a root. -/
  rootValid : s.ptValid = true
  /-- The free list is `fs`. -/
  freeList : FreeList s fs
  /-- The tables on the path are frames in memory. -/
  tablesAreFrames : ∀ l, s.reached v l →
    frameAddress (s.pathTableAt v l) = true ∧ s.inMemory (s.pathTableAt v l) Config.frameSize = true
  /-- No two levels of the path share a table. -/
  tablesDistinct : ∀ l l', s.reached v l → s.reached v l' → l ≠ l' → s.pathTableAt v l ≠ s.pathTableAt v l'
  /-- The free frames are frames in memory. -/
  freeAreFrames : ∀ f ∈ fs, frameAddress f = true ∧ s.inMemory f Config.frameSize = true
  /-- No frame is on the free list twice. -/
  freeDistinct : fs.Nodup
  /-- No table on the path is free. -/
  freeNotTables : ∀ f ∈ fs, ∀ l, s.reached v l → f ≠ s.pathTableAt v l
  /-- The bump cursor is page-aligned (P3). -/
  cursorAligned : pageAligned s.heapTop.val = true
  /-- `HEAP_LIMIT` is at most `MEM_SIZE` and 2^52 (R5). -/
  limitInDomain : s.params.heapLimit ≤ s.params.memSize ∧ s.params.heapLimit ≤ 2 ^ 52
  /-- No table on the path lies where the bump path will hand out frames. -/
  tablesOutsideBump : ∀ l, s.reached v l →
    (s.pathTableAt v l).val.toNat + Config.frameSize ≤ s.heapTop.val.toNat ∨
      s.params.heapLimit ≤ (s.pathTableAt v l).val.toNat
  /-- No free frame lies where the bump path will hand out frames. -/
  freeOutsideBump : ∀ f ∈ fs, f.val.toNat + Config.frameSize ≤ s.heapTop.val.toNat ∨ s.params.heapLimit ≤ f.val.toNat

/-! ### The bytes a command stores to -/

/-- The frame an `Alloc()` here yields, which the walker zeroes. -/
def allocStores (s : State) : List (PhysAddr × Nat) :=
  match alloc s with
  | .done (some n) _ => [(n, Config.frameSize)]
  | _ => []

/-- The bytes the creating descent stores to (R76): the slot at each level, and the frame of each table it creates. -/
def descendStores (v : VirtAddr) : List Level → PhysAddr → State → List (PhysAddr × Nat)
  | [], t, _ => [(slot t (index v .l1), 8)]
  | l :: ls, t, s =>
    (slot t (index v l), 8) :: (if isUnused (s.mem.readWord (slot t (index v l))) then allocStores s else []) ++
      match descendLevel v l t s with
      | .done (some t') s' => descendStores v ls t' s'
      | _ => []

/-- The bytes `MapOne` stores to (R76). -/
def mapStores (v : VirtAddr) (s : State) : List (PhysAddr × Nat) := descendStores v interiorLevels s.ptRoot s

/-- The bytes the loop of `PT_MAP_REGION` stores to (R84). -/
def mapPagesStores (v : VirtAddr) (p : PhysAddr) (f : FlagWord) : Nat → Nat → State → List (PhysAddr × Nat)
  | 0, _, _ => []
  | n + 1, k, s =>
    mapStores (v.add (pageOffset k)) s ++
      match mapOne (v.add (pageOffset k)) (p.add (pageOffset k)) f s with
      | .done .ok s' => mapPagesStores v p f n (k + 1) s'
      | _ => []

/-- The bytes the loop of `PT_UNMAP_REGION` stores to (R85): the level-1 slot of each page in turn. -/
def unmapPagesStores (v : VirtAddr) : Nat → Nat → State → List (PhysAddr × Nat)
  | 0, _, _ => []
  | n + 1, k, s =>
    (s.pathSlot (v.add (pageOffset k)) .l1, 8) ::
      match unmapOne (v.add (pageOffset k)) s with
      | .done _ s' => unmapPagesStores v n (k + 1) s'
      | _ => []

/-- The bytes a command may store to, as start addresses and lengths: nothing for a command that stores nothing. -/
def stores : Instr → State → List (PhysAddr × Nat)
  | .vaIndex _ _, _ => []
  | .vaOffset _, _ => []
  | .addrAdd _ _, _ => []
  | .addrSub _ _, _ => []
  | .pteNewPage _ _, _ => []
  | .pteNewTable _, _ => []
  | .pteSetFlags _ _, _ => []
  | .pteSetAddr _ _, _ => []
  | .pteSetUnused _, _ => []
  | .pteIsUnused _, _ => []
  | .pteIsPresent _, _ => []
  | .ptePhysAddr _, _ => []
  | .pteFlags _, _ => []
  | .faInit _, _ => []
  | .faAlloc, s => if s.freeHead = freeNil then allocStores s else []
  | .faFree frame, _ => [(frame, 8)]
  | .ptCreate, s => allocStores s
  | .ptAttach _, _ => []
  | .ptMap v _ _, s => mapStores v s
  | .ptUnmap v, s => [(s.pathSlot v .l1, 8)]
  | .ptGetL1 _, _ => []
  | .ptRetrieve _, _ => []
  | .ptMapRegion v p size f, s => mapPagesStores v p f (pageCount size).toNat 0 s
  | .ptUnmapRegion v size, s => unmapPagesStores v (pageCount size).toNat 0 s
  | .ptEnable, _ => []

/-! ### The invariant every step keeps -/

/-- What the rules promise of the state at every command boundary, whatever the host does. -/
structure Inv (s : State) : Prop where
  /-- Memory is in its canonical form. -/
  memCanonical : s.mem.wf = true
  /-- Every listed byte is a byte of physical memory (R21, R22). -/
  memInside : ∀ c ∈ s.mem, c.1 < s.params.memSize
  /-- The platform's parameters lie in their domain (R5). -/
  paramsInDomain : s.params.inDomain = true
  /-- `LOCK` is 0 at every command boundary (R15, R72). -/
  lockClear : s.lock = false
  /-- `FATAL_CAUSE` is a cause of R104 in the fatal state, and 0 outside it (R18). -/
  causeMatchesFatal : s.fatal = true ↔ s.fatalCause ≠ 0
  /-- Before `FA_INIT` the allocator's registers hold their reset values (R14, R19, R69). -/
  untouchedBeforeInit : s.inited = false → s.freeHead = freeNil ∧ s.heapTop = ⟨0⟩ ∧ s.heapBase = ⟨0⟩
  /-- Before a root is given, `PT_ROOT` holds its reset value (R16, R19). -/
  rootUnset : s.ptValid = false → s.ptRoot = ⟨0⟩
  /-- `HEAP_TOP` is a whole number of frames above `HEAP_BASE` (R14, R73 (d)). -/
  cursorOnFrame : ∃ k, s.heapTop.val.toNat = s.heapBase.val.toNat + k * Config.frameSize
  /-- The bump path never passes `HEAP_LIMIT` (R67). -/
  cursorBounded : s.heapTop = s.heapBase ∨ s.heapTop.val.toNat ≤ s.params.heapLimit

/-! ### The host's duties (R113, R121) -/

/-- A frame some entry on a path from `root` refers to (P4). -/
def RefersTo (s : State) (root frame : PhysAddr) : Prop :=
  ∃ (v : VirtAddr) (l : Level),
    isUnused (s.mem.readWord (slot (pathTable s.mem v l.above root) (index v l))) = false ∧
    physAddr (s.mem.readWord (slot (pathTable s.mem v l.above root) (index v l))) = frame

/-- P1 and P2 (R121), the two preconditions the block checks: the order of initialisation. -/
def orderKept (i : Instr) (s : State) : Bool :=
  match i with
  | .faInit _ => !s.inited
  | .faAlloc => s.inited
  | .faFree _ => s.inited
  | .ptCreate => s.inited
  | .ptMap _ _ _ => s.inited && s.ptValid
  | .ptMapRegion _ _ _ _ => s.inited && s.ptValid
  | .ptUnmap _ => s.ptValid
  | .ptGetL1 _ => s.ptValid
  | .ptRetrieve _ => s.ptValid
  | .ptUnmapRegion _ _ => s.ptValid
  | .ptEnable => s.ptValid
  | _ => true

/-- P4, P5 and the `MEM_SIZE` part of P6 (R121) for `FA_FREE`: the frame lies in memory, is not free already and no
entry of the manager's tree or of the active tree refers to it. -/
def FreeingAllowed (frame : PhysAddr) (s : State) : Prop :=
  s.inMemory frame Config.frameSize = true ∧ (∃ fs, FreeList s fs ∧ frame ∉ fs) ∧
    ¬ RefersTo s s.ptRoot frame ∧ ¬ RefersTo s s.activeRoot frame

/-- P10 (R121): the interior tables of every page the command reads or clears exist. -/
def pathsTracked (i : Instr) (s : State) : Prop :=
  match i with
  | .ptUnmap v => s.interiorExists v = true
  | .ptGetL1 v => s.interiorExists v = true
  | .ptRetrieve v => s.interiorExists v = true
  | .ptUnmapRegion v size => ∀ k < (pageCount size).toNat, s.interiorExists (v.add (pageOffset k)) = true
  | _ => True

/-- The preconditions of R121 that speak of one command and the state it meets. The MMB checks only P1 and P2; a
command that breaks another runs all the same, as its rule says (R105). -/
def MeetsPreconditions (i : Instr) (s : State) : Prop :=
  i.operandsInDomain = true ∧ orderKept i s = true ∧ pathsTracked i s ∧
    ∀ frame, i = .faFree frame → FreeingAllowed frame s

/-- P7 and the table clause of P12 (R121) for a host write: it touches no next-pointer of a free frame and no entry of
a table of the manager's tree. -/
def WriteAllowed (a : PhysAddr) (n : Nat) (s : State) : Prop :=
  (∀ fs, FreeList s fs → ∀ f ∈ fs, apart a n f 8 = true) ∧
    ∀ (v : VirtAddr) (l : Level), s.ptValid = true → apart a n (s.pathSlot v l) 8 = true

/-- The block has not entered the fatal state (R103, R120): a run that has is not a good ending. -/
def NotFatal (s : State) : Prop := s.fatal = false

/-! ### Reading a run -/

/-- The state `raise Fatal(cause)` leaves (R103): the fatal state with that cause, `LOCK` clear, the response, memory as
`m`, and all else as in `s`. -/
def State.stoppedFatal (s : State) (cause : BitVec 2) (m : Memory) : State :=
  { s with mem := m, fatal := true, fatalCause := cause, lock := false }.respond .fatal (cause.setWidth 64) 0

/-- The three commands that end a read-only walk use the word at `a` (R81, R82, R83): one writes zero there, one returns
the word and `a`, one returns the word's address field. -/
def lookupsUse (v : VirtAddr) (s : State) (a : PhysAddr) : Prop :=
  exec (.ptUnmap v) s = .next ({ s with mem := s.mem.writeWord a 0 }.respond .ok 0 0) ∧
  exec (.ptGetL1 v) s = .next (s.respond .ok (s.mem.readWord a) a.val) ∧
  exec (.ptRetrieve v) s = .next (s.respond .ok (s.mem.readWord a &&& 0x000FFFFFFFFFF000) 0)

/-- The status of a state's last response. -/
def State.lastStatus (s : State) : Option Status := s.response.map Response.status

/-- The commands that reach memory (R21). -/
def reachesMemory : Instr → Bool
  | .faAlloc => true
  | .faFree _ => true
  | .ptCreate => true
  | .ptMap _ _ _ => true
  | .ptUnmap _ => true
  | .ptGetL1 _ => true
  | .ptRetrieve _ => true
  | .ptMapRegion _ _ _ _ => true
  | .ptUnmapRegion _ _ => true
  | _ => false

/-- The commands that call `Alloc()` (R101). -/
def callsAlloc : Instr → Bool
  | .faAlloc => true
  | .ptCreate => true
  | .ptMap _ _ _ => true
  | .ptMapRegion _ _ _ _ => true
  | _ => false

/-- The commands that require a root (R75, R104). -/
def needsRoot : Instr → Bool
  | .ptMap _ _ _ => true
  | .ptUnmap _ => true
  | .ptGetL1 _ => true
  | .ptRetrieve _ => true
  | .ptMapRegion _ _ _ _ => true
  | .ptUnmapRegion _ _ => true
  | .ptEnable => true
  | _ => false

/-- The pure commands, families 1 and 2 (spec/40_address_types.md, spec/41_pte_codec.md). -/
def isPure : Instr → Bool
  | .vaIndex _ _ => true
  | .vaOffset _ => true
  | .addrAdd _ _ => true
  | .addrSub _ _ => true
  | .pteNewPage _ _ => true
  | .pteNewTable _ => true
  | .pteSetFlags _ _ => true
  | .pteSetAddr _ _ => true
  | .pteSetUnused _ => true
  | .pteIsUnused _ => true
  | .pteIsPresent _ => true
  | .ptePhysAddr _ => true
  | .pteFlags _ => true
  | _ => false

end Sys2Proof.Machine
end

