-- ==== Sys2Proof/Certificates/Slice0/Obligations.lean ====
section
/-! DEFINITION. The statements for the provers. Each is a claim about the machine, none about a program; OBLIGATIONS.json
gives its title, the rules it cites and their words. -/

open Sys2Proof Sys2Proof.Machine

/-! ### Encoding and decoding -/

/-- R30, R32: decoding the 40 bytes of a command's packet gives the command back, and the packet is legal. -/
def Obligations.DecodingEncodedBytesGivesTheCommandBack : Prop :=
  ∀ i : Instr, decodeBytes (encodeBytes i) = .command i ∧ (encode i).wellFormed = true

/-- R30, R32: what a packet decodes to has the packet's word 0, and its operands are the packet's operand words, in
order, as many as the command reads. -/
def Obligations.DecodedCommandHasThePacketsWords : Prop :=
  ∀ (p : Packet) (i : Instr), decodePacket p = .command i →
    p.word0 = (encode i).word0 ∧ i.operands <+: [p.a0, p.a1, p.a2, p.a3]

/-- R33, R102: a packet is illegal exactly when its word 0 is none of the 25 match values, and then, outside the fatal
state, the block answers `ILLEGAL` with two zero results and changes nothing. -/
def Obligations.PacketIsIllegalExactlyOutsideTheOpcodeMap : Prop :=
  ∀ p : Packet,
    ((∃ e, decodePacket p = .rejected e) ↔
      p.word0 ∉ ([0x10, 0x11, 0x12, 0x13, 0x20, 0x21, 0x22, 0x23, 0x24, 0x25, 0x26, 0x27, 0x28, 0x30, 0x31, 0x32,
        0x40, 0x41, 0x42, 0x43, 0x44, 0x45, 0x46, 0x47, 0x48] : List Word)) ∧
    ∀ (s : State) (rest : List HostAction), s.inbox = .command p :: rest → s.fatal = false →
      (∃ e, decodePacket p = .rejected e) →
      step s = .next ({ s with inbox := rest }.respond .illegal 0 0)

/-- A few packets written out from the map of R32 decode to the commands they stand for. -/
def Obligations.SampleWordsDecode : Prop :=
  decodeTableWord 64 0x31 = some .faAlloc ∧
  decodePacket ⟨0x10, 0xFFFF800012345678, 2, 7, 9⟩ = .command (.vaIndex ⟨0xFFFF800012345678⟩ 2) ∧
  decodePacket ⟨0x20, 0x300000, 0x8000000000000005, 0, 0⟩ = .command (.pteNewPage ⟨0x300000⟩ 0x8000000000000005) ∧
  decodePacket ⟨0x46, 0x1FE000, 0x800000, 0x3000, 3⟩ = .command (.ptMapRegion ⟨0x1FE000⟩ ⟨0x800000⟩ 0x3000 3) ∧
  decodePacket ⟨0x131, 0, 0, 0, 0⟩ = .rejected .reservedBits ∧
  decodePacket ⟨0x14, 0, 0, 0, 0⟩ = .rejected (.unassignedOpcode 0x14)

/-! ### Processing, the fatal state, reset, the host -/

/-- R36 step 3: when the packet at the front of the host's queue decodes to a command, a step is that command's rule,
run with the packet taken from the queue; with nothing in the queue the block waits (the queue is the model's own,
assumption 5). -/
def Obligations.StepRunsTheDecodedCommand : Prop :=
  (∀ (s : State) (p : Packet) (rest : List HostAction) (i : Instr),
    s.inbox = .command p :: rest → s.fatal = false → decodePacket p = .command i →
      step s = exec i { s with inbox := rest }) ∧
  ∀ s : State, s.inbox = [] → step s = .next s

/-- R36 step 1, R103: in the fatal state every packet, legal or not, is answered `(FATAL, FATAL_CAUSE, 0)` and changes
nothing; and no step but a reset event leaves the fatal state or changes its cause (the fatal state is a next state, not
a fault of the model: assumption 10). -/
def Obligations.FatalStateIsStickyUntilReset : Prop :=
  ∀ s : State, s.fatal = true →
    (∀ (p : Packet) (rest : List HostAction), s.inbox = .command p :: rest →
      step s = .next ({ s with inbox := rest }.respond .fatal (s.fatalCause.setWidth 64) 0)) ∧
    ∀ t : State, step s = .next t → (∀ rest, s.inbox ≠ .reset :: rest) → t.fatal = true ∧ t.fatalCause = s.fatalCause

/-- R116, R110: a reset event, in any state, the fatal one among them, puts every field at the value R116 gives and
leaves physical memory as it was. `ACTIVE_ROOT` is unspecified, so nothing is said of it. -/
def Obligations.ResetEventRestoresEveryField : Prop :=
  ∀ (s : State) (rest : List HostAction), s.inbox = .reset :: rest →
    ∃ t, step s = .next t ∧ t.freeHead = ⟨0⟩ ∧ t.heapTop = ⟨0⟩ ∧ t.heapBase = ⟨0⟩ ∧ t.inited = false ∧ t.lock = false ∧
      t.ptRoot = ⟨0⟩ ∧ t.ptValid = false ∧ t.fatal = false ∧ t.fatalCause = 0 ∧
      t.mem = s.mem ∧ t.params = s.params ∧ t.inbox = rest

/-- R19: the fields of the machine right after reset that the spec gives a value. -/
def Obligations.ResetStateHoldsTheSpecsValues : Prop :=
  State.reset.freeHead = ⟨0⟩ ∧ State.reset.heapTop = ⟨0⟩ ∧ State.reset.heapBase = ⟨0⟩ ∧ State.reset.inited = false ∧
  State.reset.lock = false ∧ State.reset.ptRoot = ⟨0⟩ ∧ State.reset.ptValid = false ∧ State.reset.fatal = false ∧
  State.reset.fatalCause = 0

/-- R113, D30: a host write between commands, inside memory, sets exactly the bytes written; every other byte and every
register of the block is as before. That the write is a step of the machine is the model's choice (assumption 5). -/
def Obligations.HostWriteSetsExactlyTheBytesWritten : Prop :=
  ∀ (s : State) (a : PhysAddr) (bs : List Byte) (rest : List HostAction),
    s.inbox = .write a bs :: rest → a.val.toNat + bs.length ≤ s.params.memSize → a.val.toNat + bs.length ≤ 2 ^ 64 →
    ∃ m, step s = .next { s with inbox := rest, mem := m } ∧
      (∀ (i : Nat) (h : i < bs.length), Memory.read m (a.val.toNat + i) = bs[i]) ∧
      ∀ x, outside x a bs.length → Memory.read m x = Memory.read s.mem x

/-! ### Memory access -/

/-- R22: `MemRead` and `MemWrite` of 8 bytes are little-endian, touch no other byte, and are performed exactly when no
byte lies at or beyond `MEM_SIZE` and the last does not wrap past 2^64; otherwise they raise `Fatal(BUS)`. -/
def Obligations.WordAccessIsLittleEndianAndBounded : Prop :=
  ∀ (a : PhysAddr) (v : Word) (s : State),
    (a.val.toNat + 7 < s.params.memSize → a.val.toNat + 7 < 2 ^ 64 →
      (∃ w, memRead a s = .done w s ∧ ∀ i < 8, w.extractLsb' (8 * i) 8 = Memory.read s.mem (a.val.toNat + i)) ∧
      ∃ m, memWrite a v s = .done () { s with mem := m } ∧
        (∀ i < 8, Memory.read m (a.val.toNat + i) = v.extractLsb' (8 * i) 8) ∧
        ∀ x, outside x a 8 → Memory.read m x = Memory.read s.mem x) ∧
    (s.params.memSize ≤ a.val.toNat + 7 ∨ 2 ^ 64 ≤ a.val.toNat + 7 →
      memRead a s = .raised .bus s ∧ memWrite a v s = .raised .bus s)

/-- R24: `ZeroFrame` sets 4096 bytes to zero and no other byte, bounds checked for the whole frame first; after it every
one of the 512 entries of the table there is the unused entry. -/
def Obligations.ZeroFrameClearsExactlyOneFrame : Prop :=
  ∀ (f : PhysAddr) (s : State),
    (f.val.toNat + 4095 < s.params.memSize → f.val.toNat + 4095 < 2 ^ 64 →
      ∃ m, zeroFrame f s = .done () { s with mem := m } ∧
        (∀ i < 4096, Memory.read m (f.val.toNat + i) = 0) ∧
        (∀ x, outside x f 4096 → Memory.read m x = Memory.read s.mem x) ∧
        ∀ i : BitVec 9, isUnused (Memory.readWord m (slot f i)) = true) ∧
    (s.params.memSize ≤ f.val.toNat + 4095 ∨ 2 ^ 64 ≤ f.val.toNat + 4095 → zeroFrame f s = .raised .bus s)

/-! ### Address types -/

/-- R38, R40: `VA_INDEX` returns the index field of its level, the sentinel at any other level; `VA_OFFSET` returns bits
11 to 0. Both always answer `OK`. That the sentinel is one constant, the same for every other level and every call, is the
model's reading of an OPEN parameter (assumption 4). -/
def Obligations.VirtualAddressCommandsReturnTheirField : Prop :=
  (∀ a0 a1 a2 a3 : Word, decodePacket ⟨0x10, a0, a1, a2, a3⟩ = .command (.vaIndex ⟨a0⟩ a1) ∧
    decodePacket ⟨0x11, a0, a1, a2, a3⟩ = .command (.vaOffset ⟨a0⟩)) ∧
  (∀ (v : VirtAddr) (s : State),
    exec (.vaIndex v 4) s = .next (s.respond .ok ((v.val >>> 39) &&& 0x1FF) 0) ∧
    exec (.vaIndex v 3) s = .next (s.respond .ok ((v.val >>> 30) &&& 0x1FF) 0) ∧
    exec (.vaIndex v 2) s = .next (s.respond .ok ((v.val >>> 21) &&& 0x1FF) 0) ∧
    exec (.vaIndex v 1) s = .next (s.respond .ok ((v.val >>> 12) &&& 0x1FF) 0) ∧
    (∀ l : Word, l ≠ 1 → l ≠ 2 → l ≠ 3 → l ≠ 4 →
      exec (.vaIndex v l) s = .next (s.respond .ok Config.indexSentinel 0)) ∧
    exec (.vaOffset v) s = .next (s.respond .ok (v.val &&& 0xFFF) 0))

/-- R42, R43: `ADDR_ADD` and `ADDR_SUB` compute modulo 2^64 and always answer `OK`. -/
def Obligations.AddressArithmeticIsModulo2To64 : Prop :=
  (∀ a0 a1 a2 a3 : Word, decodePacket ⟨0x12, a0, a1, a2, a3⟩ = .command (.addrAdd a0 a1) ∧
    decodePacket ⟨0x13, a0, a1, a2, a3⟩ = .command (.addrSub a0 a1)) ∧
  ∀ (a b : Word) (s : State),
    exec (.addrAdd a b) s =
      .next (s.respond .ok (BitVec.ofNat 64 ((a.toNat + b.toNat) % 2 ^ 64)) 0) ∧
    exec (.addrSub a b) s =
      .next (s.respond .ok (BitVec.ofNat 64 ((a.toNat + 2 ^ 64 - b.toNat) % 2 ^ 64)) 0)

/-- R44: the four indices and the offset, each put back at its bits, share no bit pairwise and together are bits 47:0;
so they determine those bits. -/
def Obligations.IndicesAndOffsetTileTheLow48Bits : Prop :=
  ∀ v : VirtAddr,
    [(index v .l4).setWidth 64 <<< 39, (index v .l3).setWidth 64 <<< 30, (index v .l2).setWidth 64 <<< 21,
      (index v .l1).setWidth 64 <<< 12, offset v].Pairwise (fun a b : Word => a &&& b = 0) ∧
    v.val &&& 0xFFFFFFFFFFFF =
      ((index v .l4).setWidth 64 <<< 39) ||| ((index v .l3).setWidth 64 <<< 30) ||| ((index v .l2).setWidth 64 <<< 21)
        ||| ((index v .l1).setWidth 64 <<< 12) ||| offset v ∧
    ∀ w : VirtAddr, (∀ l, index v l = index w l) → offset v = offset w →
      v.val &&& 0xFFFFFFFFFFFF = w.val &&& 0xFFFFFFFFFFFF

/-- R45: two virtual addresses that agree in bits 47:0 cannot be told apart by any command that takes one. -/
def Obligations.TopBitsOfAVirtualAddressAreIgnored : Prop :=
  ∀ (v w : VirtAddr) (l : Word) (p : PhysAddr) (size : Word) (f : FlagWord) (s : State),
    v.val &&& 0xFFFFFFFFFFFF = w.val &&& 0xFFFFFFFFFFFF →
    exec (.vaIndex v l) s = exec (.vaIndex w l) s ∧ exec (.vaOffset v) s = exec (.vaOffset w) s ∧
    exec (.ptMap v p f) s = exec (.ptMap w p f) s ∧ exec (.ptUnmap v) s = exec (.ptUnmap w) s ∧
    exec (.ptGetL1 v) s = exec (.ptGetL1 w) s ∧ exec (.ptRetrieve v) s = exec (.ptRetrieve w) s ∧
    exec (.ptMapRegion v p size f) s = exec (.ptMapRegion w p size f) s ∧
    exec (.ptUnmapRegion v size) s = exec (.ptUnmapRegion w size) s

/-- R76 (f), R83: the page offset of a virtual address and the bits of a physical address outside the address field play
no part in a map or a lookup. -/
def Obligations.PageOffsetPlaysNoPartInAWalk : Prop :=
  ∀ (v w : VirtAddr) (p q : PhysAddr) (f : FlagWord) (s : State),
    v.val &&& 0xFFFFFFFFF000 = w.val &&& 0xFFFFFFFFF000 →
    p.val &&& 0x000FFFFFFFFFF000 = q.val &&& 0x000FFFFFFFFFF000 →
    exec (.ptMap v p f) s = exec (.ptMap w q f) s ∧ exec (.ptUnmap v) s = exec (.ptUnmap w) s ∧
    exec (.ptGetL1 v) s = exec (.ptGetL1 w) s ∧ exec (.ptRetrieve v) s = exec (.ptRetrieve w) s

/-! ### The entry codec -/

/-- R55, R56, R57, R58, R59: what the commands that build or change an entry return. -/
def Obligations.EntryBuildingCommandsMaskTheirOperands : Prop :=
  (∀ a0 a1 a2 a3 : Word,
    decodePacket ⟨0x20, a0, a1, a2, a3⟩ = .command (.pteNewPage ⟨a0⟩ a1) ∧
    decodePacket ⟨0x21, a0, a1, a2, a3⟩ = .command (.pteNewTable ⟨a0⟩) ∧
    decodePacket ⟨0x22, a0, a1, a2, a3⟩ = .command (.pteSetFlags a0 a1) ∧
    decodePacket ⟨0x23, a0, a1, a2, a3⟩ = .command (.pteSetAddr a0 ⟨a1⟩) ∧
    decodePacket ⟨0x24, a0, a1, a2, a3⟩ = .command (.pteSetUnused a0)) ∧
  ∀ (e f : Word) (p : PhysAddr) (s : State),
    exec (.pteNewPage p f) s = .next (s.respond .ok ((p.val &&& 0x000FFFFFFFFFF000) ||| (f &&& 0xFFF0000000000FFF)) 0) ∧
    exec (.pteNewTable p) s = .next (s.respond .ok ((p.val &&& 0x000FFFFFFFFFF000) ||| 3) 0) ∧
    exec (.pteSetFlags e f) s = .next (s.respond .ok ((e &&& 0x000FFFFFFFFFF000) ||| (f &&& 0xFFF0000000000FFF)) 0) ∧
    exec (.pteSetAddr e p) s = .next (s.respond .ok ((e &&& 0xFFF0000000000FFF) ||| (p.val &&& 0x000FFFFFFFFFF000)) 0) ∧
    exec (.pteSetUnused e) s = .next (s.respond .ok 0 0)

/-- R60, R61, R62, R63: what the commands that read an entry return. -/
def Obligations.EntryReadingCommandsReturnTheirPart : Prop :=
  (∀ a0 a1 a2 a3 : Word,
    decodePacket ⟨0x25, a0, a1, a2, a3⟩ = .command (.pteIsUnused a0) ∧
    decodePacket ⟨0x26, a0, a1, a2, a3⟩ = .command (.pteIsPresent a0) ∧
    decodePacket ⟨0x27, a0, a1, a2, a3⟩ = .command (.ptePhysAddr a0) ∧
    decodePacket ⟨0x28, a0, a1, a2, a3⟩ = .command (.pteFlags a0)) ∧
  ∀ (e : Word) (s : State),
    exec (.pteIsUnused e) s = .next (s.respond .ok (if e = 0 then 1 else 0) 0) ∧
    exec (.pteIsPresent e) s = .next (s.respond .ok (if e.getLsbD 0 then 1 else 0) 0) ∧
    exec (.ptePhysAddr e) s = .next (s.respond .ok (e &&& 0x000FFFFFFFFFF000) 0) ∧
    exec (.pteFlags e) s = .next (s.respond .ok (e &&& 0xFFF0000000000FFF) 0)

/-- R49, R64: an entry is its address field and its flag side, disjoint; what the constructors and setters put in, the
accessors take out. -/
def Obligations.EntryPartsRoundTrip : Prop :=
  (∀ (p : PhysAddr) (f : FlagWord), p.val &&& ~~~(0x000FFFFFFFFFF000 : Word) = 0 →
    f &&& ~~~(0xFFF0000000000FFF : Word) = 0 →
    physAddr (newPageEntry p f) = p ∧ flagsOf (newPageEntry p f) = f) ∧
  (∀ (p : PhysAddr) (f : FlagWord), (physAddr (newPageEntry p f)).val = p.val &&& 0x000FFFFFFFFFF000 ∧
    flagsOf (newPageEntry p f) = f &&& 0xFFF0000000000FFF ∧ newTableEntry p = newPageEntry p 3) ∧
  ∀ (e : Pte) (p : PhysAddr) (f : FlagWord),
    e = (physAddr e).val ||| flagsOf e ∧ (physAddr e).val &&& flagsOf e = 0 ∧
    physAddr (setFlags e f) = physAddr e ∧ flagsOf (setPhysAddr e p) = flagsOf e ∧
    flagsOf (setFlags e f) = f &&& 0xFFF0000000000FFF ∧
    (physAddr (setPhysAddr e p)).val = p.val &&& 0x000FFFFFFFFFF000

/-- R76 (b): the refresh of a table entry is the entry with present and writable added: every other bit is kept, and the
table it points to is the same. -/
def Obligations.RefreshOnlyAddsPresentAndWritable : Prop :=
  ∀ e : Pte, refreshTable e = e ||| 3 ∧ physAddr (refreshTable e) = physAddr e ∧ isUnused (refreshTable e) = false

/-- The pure commands (families 1 and 2) change nothing but the response, always answer `OK`, and return one word. -/
def Obligations.PureCommandsChangeOnlyTheResponse : Prop :=
  ∀ (i : Instr) (s : State), isPure i = true → ∃ r0, exec i s = .next (s.respond .ok r0 0)

/-! ### The frame allocator -/

/-- R69: `FA_INIT` records its operand as base and cursor, once; a second one is `Fatal(ORDER)`. -/
def Obligations.FaInitRecordsBaseAndCursorOnce : Prop :=
  (∀ a0 a1 a2 a3 : Word, decodePacket ⟨0x30, a0, a1, a2, a3⟩ = .command (.faInit ⟨a0⟩)) ∧
  ∀ (a : PhysAddr) (s : State),
    (s.inited = false → s.lock = false →
      exec (.faInit a) s =
        .next ({ s with heapBase := a, heapTop := a, inited := true }.respond .ok 0 0)) ∧
    (s.inited = true →
      exec (.faInit a) s = .next ({ s with fatal := true, fatalCause := 1, lock := false }.respond .fatal 1 0))

/-- R70 with R66: `FA_ALLOC` with the lock free, on each of its paths. -/
def Obligations.FaAllocTakesTheFreeListFirst : Prop :=
  (∀ a0 a1 a2 a3 : Word, decodePacket ⟨0x31, a0, a1, a2, a3⟩ = .command .faAlloc) ∧
  ∀ s : State, s.lock = false →
    (s.inited = false →
      exec .faAlloc s = .next ({ s with fatal := true, fatalCause := 1, lock := false }.respond .fatal 1 0)) ∧
    (s.inited = true → s.freeHead ≠ ⟨0⟩ → s.inMemory s.freeHead 8 = true →
      exec .faAlloc s = .next ({ s with freeHead := ⟨s.mem.readWord s.freeHead⟩ }.respond .ok s.freeHead.val 0)) ∧
    (s.inited = true → s.freeHead ≠ ⟨0⟩ → s.inMemory s.freeHead 8 = false →
      exec .faAlloc s = .next ({ s with fatal := true, fatalCause := 3, lock := false }.respond .fatal 3 0)) ∧
    (s.inited = true → s.freeHead = ⟨0⟩ → s.params.heapLimit < s.heapTop.val.toNat + 4096 →
      exec .faAlloc s = .next (s.respond .none 0 0)) ∧
    (s.inited = true → s.freeHead = ⟨0⟩ → s.heapTop.val.toNat + 4096 ≤ s.params.heapLimit →
      s.inMemory s.heapTop 4096 = true →
      ∃ m, exec .faAlloc s =
          .next ({ s with heapTop := ⟨s.heapTop.val + 4096⟩, mem := m }.respond .ok s.heapTop.val 0) ∧
        (∀ i < 4096, Memory.read m (s.heapTop.val.toNat + i) = 0) ∧
        ∀ x, outside x s.heapTop 4096 → Memory.read m x = Memory.read s.mem x) ∧
    (s.inited = true → s.freeHead = ⟨0⟩ → s.heapTop.val.toNat + 4096 ≤ s.params.heapLimit →
      s.inMemory s.heapTop 4096 = false →
      exec .faAlloc s = .next ({ s with heapTop := ⟨s.heapTop.val + 4096⟩, fatal := true, fatalCause := 3,
                                        lock := false }.respond .fatal 3 0))

/-- R67: with the allocator ready, `FA_ALLOC` answers `NONE` exactly when the free list is empty and the next bump frame
would pass `HEAP_LIMIT`, and then nothing but the response changes; after a later `FA_FREE` it answers with the frame
freed, so `NONE` is not sticky. -/
def Obligations.ExhaustionIsExactAndNotSticky : Prop :=
  ∀ s : State, s.inited = true → s.lock = false →
    ((∃ t, exec .faAlloc s = .next t ∧ t.lastStatus = some .none) ↔
      s.freeHead = ⟨0⟩ ∧ s.params.heapLimit < s.heapTop.val.toNat + 4096) ∧
    (∀ t, exec .faAlloc s = .next t → t.lastStatus = some .none →
      t = (s.respond .none 0 0) ∧
      ∀ (f : PhysAddr) (u : State), f ≠ ⟨0⟩ → exec (.faFree f) t = .next u → u.lastStatus = some .ok →
        ∃ w, exec .faAlloc u = .next w ∧ w.response = some ⟨.ok, f.val, 0⟩)

/-- R71 with R68: `FA_FREE` with the lock free, on each of its paths. No condition on the frame but its bounds. -/
def Obligations.FaFreePushesAnyFrameInMemory : Prop :=
  (∀ a0 a1 a2 a3 : Word, decodePacket ⟨0x32, a0, a1, a2, a3⟩ = .command (.faFree ⟨a0⟩)) ∧
  ∀ (f : PhysAddr) (s : State), s.lock = false →
    (s.inited = false →
      exec (.faFree f) s = .next ({ s with fatal := true, fatalCause := 1, lock := false }.respond .fatal 1 0)) ∧
    (s.inited = true → s.inMemory f 8 = true →
      exec (.faFree f) s = .next ({ s with freeHead := f, mem := s.mem.writeWord f s.freeHead.val }.respond .ok 0 0)) ∧
    (s.inited = true → s.inMemory f 8 = false →
      exec (.faFree f) s = .next ({ s with fatal := true, fatalCause := 3, lock := false }.respond .fatal 3 0))

/-- R73 (b): a frame freed and at once allocated again comes back first; every register of the block is as before, memory
but for the next-pointer in the frame's first word, and, where the frame shares no byte with a node of the free list, the
list too. -/
def Obligations.FreedFrameIsAllocatedNext : Prop :=
  ∀ (f : PhysAddr) (s : State), s.inited = true → s.lock = false → f ≠ ⟨0⟩ → s.inMemory f 8 = true →
    ∃ t u, exec (.faFree f) s = .next t ∧ exec .faAlloc t = .next u ∧
      u = { s with mem := s.mem.writeWord f s.freeHead.val }.respond .ok f.val 0 ∧
      ∀ fs, FreeList s fs → (∀ g ∈ fs, apart f 8 g 8 = true) → FreeList u fs

/-- R65, R66, R68, R20 (b): the allocator is a stack of free frames over a bump cursor. `FA_FREE` pushes; `FA_ALLOC`
pops, or with the stack empty advances the cursor, or with nothing left answers `NONE`. -/
def Obligations.AllocatorRefinesAStackOverACursor : Prop :=
  (∀ (s : State) (f : PhysAddr) (fs : List PhysAddr), FreeList s fs → f ≠ ⟨0⟩ → s.inMemory f 8 = true →
    (∀ g ∈ fs, apart f 8 g 8 = true) →
    ∃ t, exec (.faFree f) s = .next t ∧ t.response = some ⟨.ok, 0, 0⟩ ∧ FreeList t (f :: fs) ∧
      t.heapTop = s.heapTop) ∧
  (∀ (s : State) (f : PhysAddr) (fs : List PhysAddr), FreeList s (f :: fs) →
    ∃ t, exec .faAlloc s = .next t ∧ t.response = some ⟨.ok, f.val, 0⟩ ∧ FreeList t fs ∧ t.heapTop = s.heapTop ∧
      t.mem = s.mem) ∧
  (∀ s : State, FreeList s [] → s.heapTop.val.toNat + 4096 ≤ s.params.heapLimit →
    s.inMemory s.heapTop 4096 = true →
    ∃ t, exec .faAlloc s = .next t ∧ t.response = some ⟨.ok, s.heapTop.val, 0⟩ ∧ FreeList t [] ∧
      t.heapTop = ⟨s.heapTop.val + 4096⟩) ∧
  ∀ s : State, FreeList s [] → s.params.heapLimit < s.heapTop.val.toNat + 4096 →
    exec .faAlloc s = .next (s.respond .none 0 0)

/-- R73 (c): a run of `FA_ALLOC` packets answers with the free frames in the order of the list, most recently freed
first, before any bump frame: the cursor does not move. -/
def Obligations.RunOfAllocationsEmptiesTheFreeListInOrder : Prop :=
  ∀ (fs : List PhysAddr) (s : State) (rest : List HostAction), FreeList s fs → s.fatal = false →
    s.inbox = List.replicate fs.length (.command (encode .faAlloc)) ++ rest →
    ∀ (k : Nat) (h : k < fs.length), ∃ t, Sys2Proof.core.run (k + 1) s = .next t ∧
      t.response = some ⟨.ok, fs[k].val, 0⟩ ∧ FreeList t (fs.drop (k + 1)) ∧ t.heapTop = s.heapTop

/-- R73 (d): with nothing on the free list a run of `FA_ALLOC` packets answers with consecutive frames from `HEAP_TOP`
upward, each once, as long as they lie below `HEAP_LIMIT`. -/
def Obligations.RunOfBumpAllocationsHandsOutConsecutiveFrames : Prop :=
  ∀ (n : Nat) (s : State) (rest : List HostAction), FreeList s [] → s.fatal = false →
    s.heapTop.val.toNat + n * 4096 ≤ s.params.heapLimit → s.params.heapLimit ≤ s.params.memSize →
    s.params.heapLimit ≤ 2 ^ 52 → s.inbox = List.replicate n (.command (encode .faAlloc)) ++ rest →
    ∀ k < n, ∃ t, Sys2Proof.core.run (k + 1) s = .next t ∧
      t.response = some ⟨.ok, s.heapTop.val + BitVec.ofNat 64 (k * 4096), 0⟩ ∧ FreeList t [] ∧
      t.heapTop = ⟨s.heapTop.val + BitVec.ofNat 64 ((k + 1) * 4096)⟩

/-- R74 (a): after a double free the list is a one-frame cycle: the frame's first word is its own address, and each
allocation that follows returns that frame and changes nothing but the response. The run breaks precondition P5: that
the model follows the rules there is assumption 7. -/
def Obligations.DoubleFreeMakesAOneFrameCycle : Prop :=
  ∀ (f : PhysAddr) (s t u : State), s.inited = true → s.lock = false → f ≠ ⟨0⟩ → s.inMemory f 8 = true →
    exec (.faFree f) s = .next t → exec (.faFree f) t = .next u →
    u.freeHead = f ∧ u.mem.readWord f = f.val ∧
      exec .faAlloc u = .next (u.respond .ok f.val 0)

/-- R26: freeing the frame at physical address 0 makes `FREE_HEAD` 0, which reads as "empty": the previous list is lost,
and the next allocation takes the bump path. The run breaks precondition P6 (assumption 7). -/
def Obligations.FreeingFrameZeroLosesTheFreeList : Prop :=
  ∀ (s t : State), s.inited = true → s.lock = false → 8 ≤ s.params.memSize → exec (.faFree ⟨0⟩) s = .next t →
    FreeList t [] ∧ t.heapTop = s.heapTop ∧
      (s.heapTop.val.toNat + 4096 ≤ s.params.heapLimit → s.inMemory s.heapTop 4096 = true →
        ∃ u, exec .faAlloc t = .next u ∧ u.response = some ⟨.ok, s.heapTop.val, 0⟩)

/-- R72: a lock found held with no other agent to release it is a hang, never progress: the model's fault `lockHeld`
(assumption 8). -/
def Obligations.HeldLockIsAHang : Prop :=
  ∀ (s : State) (a : PhysAddr), s.lock = true →
    (s.inited = false → exec (.faInit a) s = .fault .lockHeld) ∧
    (s.inited = true → exec .faAlloc s = .fault .lockHeld ∧ exec (.faFree a) s = .fault .lockHeld ∧
      exec .ptCreate s = .fault .lockHeld)

/-- R126, R72: with the lock free every command terminates with a response, and leaves the lock free. -/
def Obligations.EveryCommandTerminatesAndFreesTheLock : Prop :=
  ∀ (i : Instr) (s : State), s.lock = false →
    ∃ t, exec i s = .next t ∧ t.lock = false ∧ t.response.isSome = true

/-! ### The walker -/

/-- R75: every walker command but `PT_CREATE` and `PT_ATTACH` is `Fatal(NOROOT)` without a root, before anything else. -/
def Obligations.WalkerCommandsNeedARoot : Prop :=
  ∀ (i : Instr) (s : State), needsRoot i = true → s.ptValid = false →
    exec i s = .next ({ s with fatal := true, fatalCause := 2, lock := false }.respond .fatal 2 0)

/-- R78: `PT_CREATE` with the lock free: the frame `Alloc()` supplies, zeroed, becomes the root; on exhaustion, or before
`FA_INIT`, the root is unchanged. -/
def Obligations.PtCreateAdoptsAZeroedFrame : Prop :=
  (∀ a0 a1 a2 a3 : Word, decodePacket ⟨0x40, a0, a1, a2, a3⟩ = .command .ptCreate) ∧
  ∀ s : State, s.lock = false →
    (s.inited = false →
      exec .ptCreate s = .next ({ s with fatal := true, fatalCause := 1, lock := false }.respond .fatal 1 0)) ∧
    (s.inited = true → s.freeHead = ⟨0⟩ → s.params.heapLimit < s.heapTop.val.toNat + 4096 →
      exec .ptCreate s = .next (s.respond .none 0 0)) ∧
    (s.inited = true → s.freeHead ≠ ⟨0⟩ → s.inMemory s.freeHead 4096 = true →
      ∃ m, exec .ptCreate s =
          .next ({ s with freeHead := ⟨s.mem.readWord s.freeHead⟩, ptRoot := s.freeHead, ptValid := true,
                          mem := m }.respond .ok s.freeHead.val 0) ∧
        (∀ i < 4096, Memory.read m (s.freeHead.val.toNat + i) = 0) ∧
        ∀ x, outside x s.freeHead 4096 → Memory.read m x = Memory.read s.mem x) ∧
    (s.inited = true → s.freeHead = ⟨0⟩ → s.heapTop.val.toNat + 4096 ≤ s.params.heapLimit →
      s.inMemory s.heapTop 4096 = true →
      ∃ m, exec .ptCreate s =
          .next ({ s with heapTop := ⟨s.heapTop.val + 4096⟩, ptRoot := s.heapTop, ptValid := true,
                          mem := m }.respond .ok s.heapTop.val 0) ∧
        (∀ i < 4096, Memory.read m (s.heapTop.val.toNat + i) = 0) ∧
        ∀ x, outside x s.heapTop 4096 → Memory.read m x = Memory.read s.mem x) ∧
    (s.inited = true → s.freeHead ≠ ⟨0⟩ → s.inMemory s.freeHead 8 = false →
      exec .ptCreate s = .next ({ s with fatal := true, fatalCause := 3, lock := false }.respond .fatal 3 0)) ∧
    (s.inited = true → s.freeHead ≠ ⟨0⟩ → s.inMemory s.freeHead 8 = true → s.inMemory s.freeHead 4096 = false →
      exec .ptCreate s = .next ({ s with freeHead := ⟨s.mem.readWord s.freeHead⟩, fatal := true, fatalCause := 3,
                                         lock := false }.respond .fatal 3 0)) ∧
    (s.inited = true → s.freeHead = ⟨0⟩ → s.heapTop.val.toNat + 4096 ≤ s.params.heapLimit →
      s.inMemory s.heapTop 4096 = false →
      exec .ptCreate s = .next ({ s with heapTop := ⟨s.heapTop.val + 4096⟩, fatal := true, fatalCause := 3,
                                         lock := false }.respond .fatal 3 0))

/-- R79: `PT_ATTACH` takes any root, unchanged and unchecked, in any state, and accesses no memory. -/
def Obligations.PtAttachAdoptsItsOperandUnchecked : Prop :=
  (∀ a0 a1 a2 a3 : Word, decodePacket ⟨0x41, a0, a1, a2, a3⟩ = .command (.ptAttach ⟨a0⟩)) ∧
  ∀ (r : PhysAddr) (s : State),
    exec (.ptAttach r) s = .next ({ s with ptRoot := r, ptValid := true }.respond .ok 0 0)

/-- R86: `PT_ENABLE` copies `PT_ROOT` into `ACTIVE_ROOT`, whatever it holds; without a root it is `Fatal(NOROOT)`. -/
def Obligations.PtEnableCopiesTheRoot : Prop :=
  (∀ a0 a1 a2 a3 : Word, decodePacket ⟨0x48, a0, a1, a2, a3⟩ = .command .ptEnable) ∧
  ∀ s : State,
    (s.ptValid = true → exec .ptEnable s = .next ({ s with activeRoot := s.ptRoot }.respond .ok 0 0)) ∧
    (s.ptValid = false →
      exec .ptEnable s = .next ({ s with fatal := true, fatalCause := 2, lock := false }.respond .fatal 2 0))

/-- R80 with R76: `PT_MAP` of a page whose interior tables exist makes four writes, the three refreshed entries and the
terminal mapping, allocates nothing and answers `OK`. -/
def Obligations.PtMapOnExistingTablesMakesFourWrites : Prop :=
  ∀ (v : VirtAddr) (p : PhysAddr) (f : FlagWord) (s : State), s.pathReady v = true →
    ∃ m4 m3 m2 m1 : Memory,
      m4 = s.mem.writeWord (s.pathSlot v .l4) (s.pathEntry v .l4 ||| 3) ∧
      m3 = m4.writeWord (s.pathSlot v .l3) (s.pathEntry v .l3 ||| 3) ∧
      m2 = m3.writeWord (s.pathSlot v .l2) (s.pathEntry v .l2 ||| 3) ∧
      m1 = m2.writeWord (s.pathSlot v .l1) ((p.val &&& 0x000FFFFFFFFFF000) ||| (f &&& 0xFFF0000000000FFF)) ∧
      exec (.ptMap v p f) s = .next ({ s with mem := m1 }.respond .ok 0 0)

/-- R80 with R76: `PT_MAP` of a page under an unused level-4 entry, with the free list empty and three bump frames left,
creates three tables, links them in order, writes the terminal mapping and answers `OK`; every other entry of the three
tables is unused. -/
def Obligations.PtMapGrowsThreeTablesFromTheBumpPath : Prop :=
  ∀ (v : VirtAddr) (p : PhysAddr) (f : FlagWord) (s : State),
    s.ptValid = true → s.inited = true → s.lock = false → s.freeHead = ⟨0⟩ → pageAligned s.heapTop.val = true →
    s.heapTop.val.toNat + 3 * 4096 ≤ s.params.heapLimit → s.params.heapLimit ≤ s.params.memSize →
    s.params.heapLimit ≤ 2 ^ 52 → s.inMemory (s.pathSlot v .l4) 8 = true → s.pathEntry v .l4 = 0 →
    apart (s.pathSlot v .l4) 8 s.heapTop (3 * 4096) = true →
    ∃ t, exec (.ptMap v p f) s = .next t ∧ t.response = some ⟨.ok, 0, 0⟩ ∧
      t.heapTop = ⟨s.heapTop.val + 0x3000⟩ ∧ t.freeHead = ⟨0⟩ ∧ t.ptRoot = s.ptRoot ∧
      t.mem.readWord (s.pathSlot v .l4) = s.heapTop.val ||| 3 ∧
      t.mem.readWord (slot s.heapTop (index v .l3)) = (s.heapTop.val + 0x1000) ||| 3 ∧
      t.mem.readWord (slot ⟨s.heapTop.val + 0x1000⟩ (index v .l2)) = (s.heapTop.val + 0x2000) ||| 3 ∧
      t.mem.readWord (slot ⟨s.heapTop.val + 0x2000⟩ (index v .l1)) =
        (p.val &&& 0x000FFFFFFFFFF000) ||| (f &&& 0xFFF0000000000FFF) ∧
      (∀ i, i ≠ index v .l3 → t.mem.readWord (slot s.heapTop i) = 0) ∧
      (∀ i, i ≠ index v .l2 → t.mem.readWord (slot ⟨s.heapTop.val + 0x1000⟩ i) = 0) ∧
      (∀ i, i ≠ index v .l1 → t.mem.readWord (slot ⟨s.heapTop.val + 0x2000⟩ i) = 0) ∧
      t.pathSlot v .l1 = slot ⟨s.heapTop.val + 0x2000⟩ (index v .l1)

/-- R88 (a), R73 (a), R76 (d): where the host has kept the frames of the path and of the allocator apart, `PT_MAP` answers
`OK` or `NONE`, never `FATAL`. Either way, in a table the map created every entry off the path is unused, however stale the
frame was and whichever path of the allocator supplied it. After an `OK`, `PT_RETRIEVE` answers with the frame mapped and
`PT_GET_L1` with the frame and the flags, and the slot at the end of the path. -/
def Obligations.MapThenRetrieveGivesTheFrameBack : Prop :=
  ∀ (v : VirtAddr) (p : PhysAddr) (f : FlagWord) (fs : List PhysAddr) (s : State), MapPlaced s v fs →
    ∃ t, exec (.ptMap v p f) s = .next t ∧ (t.lastStatus = some .ok ∨ t.lastStatus = some .none) ∧
      (∀ l, ¬ s.reached v l → t.reached v l →
        ∀ i, i ≠ index v l → t.mem.readWord (slot (t.pathTableAt v l) i) = 0) ∧
      (t.lastStatus = some .ok →
        (∀ l, t.reached v l) ∧
        exec (.ptRetrieve v) t = .next (t.respond .ok (p.val &&& 0x000FFFFFFFFFF000) 0) ∧
        exec (.ptGetL1 v) t = .next (t.respond .ok
          ((p.val &&& 0x000FFFFFFFFFF000) ||| (f &&& 0xFFF0000000000FFF)) (t.pathSlot v .l1).val))

/-- R81, R82, R83: `PT_UNMAP`, `PT_GET_L1` and `PT_RETRIEVE` of a page whose path lies in memory: zero is written to the
level-1 slot whatever it held; the entry and its slot are returned; the entry's address field is returned. No entry on
the way is tested. -/
def Obligations.LookupsAndUnmapFollowThePathUntested : Prop :=
  ∀ (v : VirtAddr) (s : State), s.pathInMemory v = true →
    exec (.ptUnmap v) s = .next ({ s with mem := s.mem.writeWord (s.pathSlot v .l1) 0 }.respond .ok 0 0) ∧
    exec (.ptGetL1 v) s =
      .next (s.respond .ok (s.pathEntry v .l1) ((s.pathSlot v .l1).val)) ∧
    exec (.ptRetrieve v) s =
      .next (s.respond .ok (s.pathEntry v .l1 &&& 0x000FFFFFFFFFF000) 0)

/-- R77, R89 (a): an unused entry on the way sends the walk to the frame at physical address 0, as if it were a table:
`PT_UNMAP`, `PT_GET_L1` and `PT_RETRIEVE` go on through the entries they find there and use the word they end at. The run
breaks precondition P10 (assumption 7). -/
def Obligations.UnusedEntrySendsTheWalkToFrameZero : Prop :=
  ∀ (v : VirtAddr) (s : State), s.pathInMemory v = true →
    (s.pathEntry v .l4 = 0 →
      lookupsUse v s
        (slot (physAddr (s.mem.readWord (slot (physAddr (s.mem.readWord (slot ⟨0⟩ (index v .l3)))) (index v .l2))))
          (index v .l1))) ∧
    (s.pathEntry v .l3 = 0 →
      lookupsUse v s (slot (physAddr (s.mem.readWord (slot ⟨0⟩ (index v .l2)))) (index v .l1))) ∧
    (s.pathEntry v .l2 = 0 → lookupsUse v s (slot ⟨0⟩ (index v .l1)))

/-- R22, R77, R76: a walk that meets a slot beyond memory, at whichever level, is `Fatal(BUS)`. The commands whose walk is
read-only have changed nothing; a map that came there by tables that exist has refreshed the entries above, and what it
wrote stays written (R103, R109). -/
def Obligations.WalkBeyondMemoryIsABusError : Prop :=
  ∀ (v : VirtAddr) (p : PhysAddr) (f : FlagWord) (size : Word) (l : Level) (s : State), s.ptValid = true → size ≠ 0 →
    (∀ l' ∈ l.above, s.inMemory (s.pathSlot v l') 8 = true) → s.inMemory (s.pathSlot v l) 8 = false →
    (∀ i ∈ [Instr.ptUnmap v, .ptGetL1 v, .ptRetrieve v, .ptUnmapRegion v size],
      exec i s = .next (s.stoppedFatal 3 s.mem)) ∧
    (s.reached v l → s.slotsApart v l.above →
      ∀ i ∈ [Instr.ptMap v p f, .ptMapRegion v p size f], exec i s = .next (s.stoppedFatal 3 (s.refreshedAbove v l)))

/-- R88 (b), R81: after a map and an unmap of a page its level-1 entry is the unused entry, and a second unmap changes
nothing at all. -/
def Obligations.UnmapAfterMapIsUnusedAndIdempotent : Prop :=
  ∀ (v : VirtAddr) (p : PhysAddr) (f : FlagWord) (s t u : State), s.pathReady v = true →
    exec (.ptMap v p f) s = .next t → exec (.ptUnmap v) t = .next u →
    exec (.ptGetL1 v) u = .next (u.respond .ok 0 ((s.pathSlot v .l1).val)) ∧
    exec (.ptUnmap v) u = .next u

/-- R88 (c): mapping a mapped page again replaces the mapping, last write wins, and allocates nothing: the
machine ends as if the first map had never been made (memory being in its canonical form). -/
def Obligations.RemapIsLastWriteWins : Prop :=
  ∀ (v : VirtAddr) (p q : PhysAddr) (f g : FlagWord) (s t : State), s.pathReady v = true → s.mem.wf = true →
    exec (.ptMap v p f) s = .next t →
    ∃ u, exec (.ptMap v q g) t = .next u ∧ u.freeHead = s.freeHead ∧ u.heapTop = s.heapTop ∧
      exec (.ptMap v q g) s = .next u ∧
      exec (.ptRetrieve v) u = .next (u.respond .ok (q.val &&& 0x000FFFFFFFFFF000) 0) ∧
      exec (.ptGetL1 v) u = .next (u.respond .ok
        ((q.val &&& 0x000FFFFFFFFFF000) ||| (g &&& 0xFFF0000000000FFF)) (s.pathSlot v .l1).val)

/-- R88 (e): mapping one page leaves the level-1 entry of every other page as it was, where the two paths share slots of
interior tables only. -/
def Obligations.MapLeavesOtherPagesAlone : Prop :=
  ∀ (v w : VirtAddr) (p : PhysAddr) (f : FlagWord) (s t : State), s.pathReady v = true → s.pathInMemory w = true →
    s.pathsSeparate v w → exec (.ptMap v p f) s = .next t →
    exec (.ptGetL1 w) t = .next (t.respond .ok (s.pathEntry w .l1) ((s.pathSlot w .l1).val))

/-- R91: when frames run out in the middle of a map, the tables already created stay zeroed and linked: here the level-3
table is created with the last frame, the level-2 table cannot be, and the answer is `NONE`. -/
def Obligations.ExhaustedMapKeepsTheTablesItCreated : Prop :=
  ∀ (v : VirtAddr) (p : PhysAddr) (f : FlagWord) (s : State),
    s.ptValid = true → s.inited = true → s.lock = false → s.freeHead = ⟨0⟩ → pageAligned s.heapTop.val = true →
    s.heapTop.val.toNat + 4096 ≤ s.params.heapLimit → s.params.heapLimit < s.heapTop.val.toNat + 2 * 4096 →
    s.params.heapLimit ≤ s.params.memSize → s.params.heapLimit ≤ 2 ^ 52 →
    s.inMemory (s.pathSlot v .l4) 8 = true → s.pathEntry v .l4 = 0 →
    apart (s.pathSlot v .l4) 8 s.heapTop 4096 = true →
    ∃ t, exec (.ptMap v p f) s = .next t ∧ t.response = some ⟨.none, 0, 0⟩ ∧
      t.heapTop = ⟨s.heapTop.val + 4096⟩ ∧ t.mem.readWord (s.pathSlot v .l4) = s.heapTop.val ||| 3 ∧
      (∀ i < 4096, Memory.read t.mem (s.heapTop.val.toNat + i) = 0) ∧ t.ptRoot = s.ptRoot

/-- R117: before `FA_INIT` a map works as long as no table has to be created, and is `Fatal(ORDER)` at the first unused
interior entry, at level 4, 3 or 2: the entries above it stay refreshed, and nothing else is written (R103, R109). -/
def Obligations.MapBeforeInitIsFatalAtAnUnusedEntry : Prop :=
  ∀ (v : VirtAddr) (p : PhysAddr) (f : FlagWord) (size : Word) (s : State), s.ptValid = true → s.inited = false →
    (∀ l, l ≠ .l1 → (∀ l' ∈ l.above ++ [l], s.inMemory (s.pathSlot v l') 8 = true) → s.slotsApart v (l.above ++ [l]) →
      s.reached v l → s.pathEntry v l = 0 →
      exec (.ptMap v p f) s = .next (s.stoppedFatal 1 (s.refreshedAbove v l)) ∧
      (size ≠ 0 → exec (.ptMapRegion v p size f) s = .next (s.stoppedFatal 1 (s.refreshedAbove v l)))) ∧
    (s.pathReady v = true → ∃ t, exec (.ptMap v p f) s = .next t ∧ t.response = some ⟨.ok, 0, 0⟩)

/-- R84: a region map is one map of its first page and then the region map of the rest, stopped at the first `NONE` or
`FATAL`; a region of no bytes maps nothing and returns 0. -/
def Obligations.RegionMapIsOneMapThenTheRest : Prop :=
  ∀ (v : VirtAddr) (p : PhysAddr) (size : Word) (f : FlagWord) (s : State),
    (s.ptValid = true → exec (.ptMapRegion v p 0 f) s = .next (s.respond .ok 0 0)) ∧
    (size ≠ 0 → ∀ t, exec (.ptMap v p f) s = .next t →
      (t.lastStatus ≠ some .ok → exec (.ptMapRegion v p size f) s = .next t) ∧
      (t.lastStatus = some .ok → ∀ u,
        exec (.ptMapRegion (v.add 4096) (p.add 4096) (if size.toNat ≤ 4096 then 0 else size - 4096) f) t = .next u →
        ∃ r, u.response = some r ∧ exec (.ptMapRegion v p size f) s =
          .next (if r.status = .fatal then u else { u with response := some { r with r0 := r.r0 + 1 } })))

/-- R85: a region unmap is one unmap of its first page and then the region unmap of the rest. -/
def Obligations.RegionUnmapIsOneUnmapThenTheRest : Prop :=
  ∀ (v : VirtAddr) (size : Word) (s : State),
    (s.ptValid = true → exec (.ptUnmapRegion v 0) s = .next (s.respond .ok 0 0)) ∧
    (size ≠ 0 → ∀ t, exec (.ptUnmap v) s = .next t →
      (t.lastStatus ≠ some .ok → exec (.ptUnmapRegion v size) s = .next t) ∧
      (t.lastStatus = some .ok → ∀ u,
        exec (.ptUnmapRegion (v.add 4096) (if size.toNat ≤ 4096 then 0 else size - 4096)) t = .next u →
        ∃ r, u.response = some r ∧ exec (.ptUnmapRegion v size) s =
          .next (if r.status = .fatal then u else { u with response := some { r with r0 := r.r0 + 1 } })))

/-- R84, R88 (d): a region that lies under one existing level-1 table is mapped page by page: the answer is `OK` with the
page count (the size in pages, rounded up), every page of the region holds its own frame with the flags given, and
`PT_RETRIEVE` of each page answers with that frame. -/
def Obligations.RegionMapUnderOneTableMapsEveryPage : Prop :=
  ∀ (v : VirtAddr) (p : PhysAddr) (size : Word) (f : FlagWord) (s : State),
    s.pathReady v = true → s.inMemory (s.pathTableAt v .l1) 4096 = true →
    (index v .l1).toNat + (size.toNat + 4095) / 4096 ≤ 512 →
    (∀ l ∈ interiorLevels, apart (s.pathSlot v l) 8 (s.pathTableAt v .l1) 4096 = true) →
    ∃ t, exec (.ptMapRegion v p size f) s = .next t ∧
      t.response = some ⟨.ok, BitVec.ofNat 64 ((size.toNat + 4095) / 4096), 0⟩ ∧
      t.freeHead = s.freeHead ∧ t.heapTop = s.heapTop ∧
      ∀ k < (size.toNat + 4095) / 4096,
        t.mem.readWord ((s.pathSlot v .l1).add (BitVec.ofNat 64 (8 * k))) =
          ((p.val + BitVec.ofNat 64 (k * 4096)) &&& 0x000FFFFFFFFFF000) ||| (f &&& 0xFFF0000000000FFF) ∧
        exec (.ptRetrieve (v.add (BitVec.ofNat 64 (k * 4096)))) t =
          .next (t.respond .ok ((p.val + BitVec.ofNat 64 (k * 4096)) &&& 0x000FFFFFFFFFF000) 0)

/-- R85, R28: where physical memory holds every address an entry can name and the root table, a region unmap always
completes with `OK` and the page count, whatever the tables hold, and touches no register. -/
def Obligations.RegionUnmapCompletesOverWholeMemory : Prop :=
  ∀ (v : VirtAddr) (size : Word) (s : State), s.ptValid = true → 2 ^ 52 ≤ s.params.memSize →
    s.ptRoot.val.toNat + 4096 ≤ s.params.memSize → s.ptRoot.val.toNat + 4096 ≤ 2 ^ 64 →
    ∃ m, exec (.ptUnmapRegion v size) s =
      .next ({ s with mem := m }.respond .ok (BitVec.ofNat 64 ((size.toNat + 4095) / 4096)) 0)

/-- R87 (which the spec marks as general knowledge; assumption 9): after a present page is mapped and its tree enabled,
the consumer's reading of the active table takes a virtual address to the frame mapped plus the page offset. -/
def Obligations.EnabledMappingIsWhatTheConsumerReads : Prop :=
  ∀ (v : VirtAddr) (p : PhysAddr) (f : FlagWord) (s t u : State), s.pathReady v = true → f.getLsbD 0 = true →
    exec (.ptMap v p f) s = .next t → exec .ptEnable t = .next u →
    consumerTranslate v u = some ⟨(p.val &&& 0x000FFFFFFFFFF000) + (v.val &&& 0xFFF)⟩

/-! ### The whole machine -/

/-- Every step keeps the invariant, whatever the host's next action is. -/
def Obligations.EveryStepKeepsTheInvariant : Prop :=
  ∀ s t : State, Inv s → step s = .next t → Inv t

/-- The machine right after reset meets the invariant. It rests on the parameters and the empty memory that
`State.reset` is given (assumptions 1 and 2). -/
def Obligations.ResetMeetsTheInvariant : Prop := Inv State.reset

/-- R101, R102, R104: which commands can answer which status and which cause. -/
def Obligations.StatusesAndCausesComeFromTheirCommandsOnly : Prop :=
  ∀ (i : Instr) (s t : State), exec i s = .next t →
    t.lastStatus ≠ some .illegal ∧
    (t.lastStatus = some .none → callsAlloc i = true) ∧
    (t.lastStatus = some .fatal → t.fatal = true ∧
      (t.response = some ⟨.fatal, 1, 0⟩ ∧ t.fatalCause = 1 ∧ (callsAlloc i = true ∨ ∃ a, i = .faInit a ∨ i = .faFree a) ∨
       t.response = some ⟨.fatal, 2, 0⟩ ∧ t.fatalCause = 2 ∧ needsRoot i = true ∧ s.ptValid = false ∨
       t.response = some ⟨.fatal, 3, 0⟩ ∧ t.fatalCause = 3 ∧ reachesMemory i = true))

/-- R17, R14: no command reads `ACTIVE_ROOT` or `HEAP_BASE`: but for `PT_ENABLE` writing the one and `FA_INIT` the other,
a command does the same whatever they hold, and leaves them as they were. -/
def Obligations.ActiveRootAndHeapBaseAreNeverRead : Prop :=
  ∀ (i : Instr) (s t : State) (r b : PhysAddr), i ≠ .ptEnable → (∀ a, i ≠ .faInit a) → exec i s = .next t →
    t.activeRoot = s.activeRoot ∧ t.heapBase = s.heapBase ∧
    exec i { s with activeRoot := r, heapBase := b } = .next { t with activeRoot := r, heapBase := b }

/-- R11: operands and results are not retained: no command's outcome depends on an earlier response. -/
def Obligations.EarlierResponsesAreNeverRead : Prop :=
  ∀ (i : Instr) (s : State) (r : Option Response), exec i { s with response := r } = exec i s

/-- R14, R15, R16, R17, R18: which commands can write which register, all others left as they were. -/
def Obligations.RegistersAreWrittenByTheirCommandsOnly : Prop :=
  ∀ (i : Instr) (s t : State), exec i s = .next t →
    (t.freeHead = s.freeHead ∨ callsAlloc i = true ∨ ∃ f, i = .faFree f) ∧
    (t.heapTop = s.heapTop ∨ callsAlloc i = true ∨ ∃ a, i = .faInit a) ∧
    (t.heapBase = s.heapBase ∧ t.inited = s.inited ∨ ∃ a, i = .faInit a) ∧
    (t.lock = s.lock ∨ t.lock = false) ∧
    (t.ptRoot = s.ptRoot ∧ t.ptValid = s.ptValid ∨ i = .ptCreate ∨ ∃ r, i = .ptAttach r) ∧
    (t.activeRoot = s.activeRoot ∨ i = .ptEnable) ∧
    (t.fatal = s.fatal ∧ t.fatalCause = s.fatalCause ∨ t.lastStatus = some .fatal) ∧
    t.params = s.params ∧ t.inbox = s.inbox ∧ t.resetDraws = s.resetDraws

/-- R21, R27: the frame of memory: a command changes no byte outside the ones its rule stores to, computed by the
walker's and the allocator's own functions; a command that stores nothing changes no byte. -/
def Obligations.MemoryIsUnchangedOutsideTheBytesStored : Prop :=
  ∀ (i : Instr) (s t : State), exec i s = .next t →
    ∀ x, (∀ r ∈ stores i s, outside x r.1 r.2) → Memory.read t.mem x = Memory.read s.mem x
end

