-- ==== Sys2Proof/Laws/Memory.lean ====
section
/-! SUPPORT. The laws of memory: what one byte reads as after each operation, the little-endian word, and the canonical
form, which every operation keeps. The read laws hold of every list, canonical or not. -/

namespace Sys2Proof.Machine

/-! ### Reading one byte after each operation -/

@[simp] theorem Memory.read_nil (x : Nat) : Memory.read [] x = Config.unlistedByte := rfl

@[simp] theorem Memory.read_cons (k : Nat) (b : Byte) (m : Memory) (x : Nat) :
    Memory.read ((k, b) :: m) x = if k = x then b else Memory.read m x := rfl

/-- A filter on addresses keeps the bytes it keeps and drops the others to what is unlisted. -/
theorem Memory.read_filter (q : Nat → Bool) (m : Memory) (x : Nat) :
    Memory.read (m.filter fun c => q c.1) x = if q x then Memory.read m x else Config.unlistedByte := by
  induction m with
  | nil => simp
  | cons c m ih =>
    obtain ⟨k, b⟩ := c
    by_cases hk : k = x
    · subst hk
      by_cases hq : q k <;> simp_all
    · by_cases hq : q k <;> simp_all

theorem Memory.read_erase (m : Memory) (a x : Nat) :
    Memory.read (Memory.erase m a) x = if x = a then Config.unlistedByte else Memory.read m x := by
  have h := Memory.read_filter (fun k => k != a) m x
  by_cases hx : x = a <;> simp_all [Memory.erase]

theorem Memory.read_insert (m : Memory) (a x : Nat) (b : Byte) (hm : Memory.read m a = Config.unlistedByte)
    (hn : ∀ c ∈ m, c.1 ≠ a) :
    Memory.read (Memory.insert m a b) x = if x = a then b else Memory.read m x := by
  induction m with
  | nil => by_cases hx : a = x <;> simp [Memory.insert, hx, eq_comm]
  | cons c m ih =>
    obtain ⟨k, v⟩ := c
    have hk : k ≠ a := hn (k, v) (by simp)
    have hm' : Memory.read m a = Config.unlistedByte := by simpa [hk] using hm
    have ih' := ih hm' fun c hc => hn c (by simp [hc])
    by_cases hlt : k < a
    · by_cases hx : k = x
      · subst hx; simp [Memory.insert, hlt, hk]
      · simp [Memory.insert, hlt, hx, ih']
    · by_cases hx : a = x
      · subst hx; simp [Memory.insert, hlt]
      · simp [Memory.insert, hlt, hx, eq_comm]

/-- Read after write, at the address written and at every other. -/
theorem Memory.read_write (m : Memory) (a x : Nat) (b : Byte) :
    Memory.read (Memory.write m a b) x = if x = a then b else Memory.read m x := by
  unfold Memory.write
  have he := Memory.read_erase m a
  split
  · next hb => simp [he, hb]
  · rw [Memory.read_insert _ _ _ _ (by simp [he])]
    · by_cases hx : x = a <;> simp [he, hx]
    · intro c hc; simpa [Memory.erase] using (List.mem_filter.1 hc).2

theorem Memory.read_write_same (m : Memory) (a : Nat) (b : Byte) : Memory.read (Memory.write m a b) a = b := by
  simp [Memory.read_write]

theorem Memory.read_write_other (m : Memory) {a x : Nat} (h : x ≠ a) (b : Byte) :
    Memory.read (Memory.write m a b) x = Memory.read m x := by
  simp [Memory.read_write, h]

/-- Every byte of a run of writes: the byte written there, or what stood there. -/
theorem Memory.read_writeBytes (bs : List Byte) (m : Memory) (a x : Nat) :
    Memory.read (Memory.writeBytes m a bs) x =
      if h : a ≤ x ∧ x < a + bs.length then bs[x - a]'(by omega) else Memory.read m x := by
  induction bs generalizing m a with
  | nil => simp [Memory.writeBytes]
  | cons b bs ih =>
    rw [Memory.writeBytes, ih]
    by_cases hxa : x = a
    · subst hxa; simp [Memory.read_write]
    · by_cases h : a ≤ x ∧ x < a + (b :: bs).length
      · have h' : a + 1 ≤ x ∧ x < a + 1 + bs.length := by simp at h; omega
        have hs : x - a = (x - (a + 1)) + 1 := by omega
        simp only [h', h, and_self, dif_pos]
        simp [hs]
      · have h' : ¬(a + 1 ≤ x ∧ x < a + 1 + bs.length) := by simp at h; omega
        rw [dif_neg h', dif_neg h, Memory.read_write_other _ hxa]

theorem Memory.read_writeBytes_outside (bs : List Byte) (m : Memory) {a x : Nat}
    (h : x < a ∨ a + bs.length ≤ x) : Memory.read (Memory.writeBytes m a bs) x = Memory.read m x := by
  rw [Memory.read_writeBytes, dif_neg (by omega)]

theorem Memory.read_zeroRange (m : Memory) (a n x : Nat) :
    Memory.read (Memory.zeroRange m a n) x = if a ≤ x ∧ x < a + n then 0 else Memory.read m x := by
  have h := Memory.read_filter (fun k => decide (k < a) || decide (a + n ≤ k)) m x
  unfold Memory.zeroRange
  rw [h]
  by_cases hx : a ≤ x ∧ x < a + n
  · have : ¬(x < a) ∧ ¬(a + n ≤ x) := by omega
    simp [this, hx, Config.unlistedByte]
  · have : x < a ∨ a + n ≤ x := by omega
    simp [this, hx]

/-! ### The little-endian word -/

@[simp] theorem length_bytesOfWord (w : Word) : (bytesOfWord w).length = 8 := rfl

theorem bytesOfWord_getElem (w : Word) (i : Nat) (h : i < (bytesOfWord w).length) :
    (bytesOfWord w)[i] = byteOfWord w i := by
  rw [length_bytesOfWord] at h
  interval_cases i <;> rfl

theorem Memory.readBytes_congr (m m' : Memory) (a n : Nat)
    (h : ∀ x, a ≤ x → x < a + n → Memory.read m x = Memory.read m' x) :
    Memory.readBytes m a n = Memory.readBytes m' a n := by
  induction n generalizing a with
  | zero => rfl
  | succ n ih =>
    simp only [Memory.readBytes]
    rw [h a (by omega) (by omega), ih (a + 1) fun x h1 h2 => h x (by omega) (by omega)]

/-- A word is a function of its eight bytes. -/
theorem Memory.readWord_congr (m m' : Memory) (a : PhysAddr)
    (h : ∀ x, a.val.toNat ≤ x → x < a.val.toNat + 8 → Memory.read m x = Memory.read m' x) :
    Memory.readWord m a = Memory.readWord m' a := by
  unfold Memory.readWord
  rw [Memory.readBytes_congr m m' _ 8 h]

theorem Memory.read_writeWord_outside (m : Memory) (a : PhysAddr) (w : Word) {x : Nat}
    (h : x < a.val.toNat ∨ a.val.toNat + 8 ≤ x) : Memory.read (Memory.writeWord m a w) x = Memory.read m x :=
  Memory.read_writeBytes_outside _ _ (by simpa using h)

theorem Memory.read_writeWord_inside (m : Memory) (a : PhysAddr) (w : Word) {i : Nat} (h : i < 8) :
    Memory.read (Memory.writeWord m a w) (a.val.toNat + i) = byteOfWord w i := by
  unfold Memory.writeWord
  rw [Memory.read_writeBytes, dif_pos (by simp; omega), ← bytesOfWord_getElem w i (by simpa using h)]
  congr 1
  omega

theorem wordOfBytes_getLsbD (bs : List Byte) (i : Nat) (hi : i < 64) :
    (wordOfBytes bs).getLsbD i = (bs.getD (i / 8) 0).getLsbD (i % 8) := by
  induction bs generalizing i with
  | nil => simp [wordOfBytes]
  | cons b bs ih =>
    rw [wordOfBytes, BitVec.getLsbD_or, BitVec.getLsbD_setWidth, BitVec.getLsbD_shiftLeft]
    by_cases h8 : i < 8
    · have h0 : i / 8 = 0 := by omega
      have hm : i % 8 = i := by omega
      simp [h8, h0, hm, hi]
    · have h1 : i / 8 = (i - 8) / 8 + 1 := by omega
      have hm : i % 8 = (i - 8) % 8 := by omega
      have hb : b.getLsbD i = false := BitVec.getLsbD_of_ge _ _ (by omega)
      simp [h8, hi, hb, ih (i - 8) (by omega), h1, hm]

theorem wordOfBytes_bytesOfWord (w : Word) : wordOfBytes (bytesOfWord w) = w := by
  apply BitVec.eq_of_getLsbD_eq
  intro i hi
  have hk : i / 8 < (bytesOfWord w).length := by simp; omega
  rw [wordOfBytes_getLsbD _ _ hi, List.getD_eq_getElem _ _ hk, bytesOfWord_getElem, byteOfWord,
    BitVec.getLsbD_extractLsb']
  have : i % 8 < 8 := by omega
  have h' : 8 * (i / 8) + i % 8 = i := by omega
  simp [this, h']

theorem Memory.readBytes_writeBytes (bs : List Byte) (m : Memory) (a : Nat) :
    Memory.readBytes (Memory.writeBytes m a bs) a bs.length = bs := by
  induction bs generalizing m a with
  | nil => rfl
  | cons b bs ih =>
    rw [List.length_cons, Memory.readBytes, Memory.writeBytes, ih,
      Memory.read_writeBytes_outside _ _ (by omega), Memory.read_write_same]

/-- A word read where it was written. -/
theorem Memory.readWord_writeWord_same (m : Memory) (a : PhysAddr) (w : Word) :
    Memory.readWord (Memory.writeWord m a w) a = w := by
  have h := Memory.readBytes_writeBytes (bytesOfWord w) m a.val.toNat
  unfold Memory.readWord Memory.writeWord
  rw [length_bytesOfWord] at h
  rw [h, wordOfBytes_bytesOfWord]

/-- A word read where no byte of it was written. -/
theorem Memory.readWord_writeWord_apart (m : Memory) (a b : PhysAddr) (w : Word)
    (h : a.val.toNat + 8 ≤ b.val.toNat ∨ b.val.toNat + 8 ≤ a.val.toNat) :
    Memory.readWord (Memory.writeWord m a w) b = Memory.readWord m b :=
  Memory.readWord_congr _ _ _ fun _ h1 h2 => Memory.read_writeWord_outside _ _ _ (by omega)

theorem wordOfBytes_zero (n : Nat) : wordOfBytes (List.replicate n 0) = 0 := by
  induction n with
  | zero => rfl
  | succ n ih =>
    simp only [List.replicate_succ, wordOfBytes]
    rw [ih]
    rfl

theorem Memory.readBytes_zero (m : Memory) (a n : Nat) (h : ∀ x, a ≤ x → x < a + n → Memory.read m x = 0) :
    Memory.readBytes m a n = List.replicate n 0 := by
  induction n generalizing a with
  | zero => rfl
  | succ n ih =>
    simp only [Memory.readBytes, List.replicate_succ]
    rw [h a (by omega) (by omega), ih (a + 1) fun x h1 h2 => h x (by omega) (by omega)]

/-- A word inside a zeroed range reads as zero. -/
theorem Memory.readWord_zeroRange_inside (m : Memory) (a n : Nat) (b : PhysAddr)
    (h1 : a ≤ b.val.toNat) (h2 : b.val.toNat + 8 ≤ a + n) :
    Memory.readWord (Memory.zeroRange m a n) b = 0 := by
  unfold Memory.readWord
  rw [Memory.readBytes_zero, wordOfBytes_zero]
  intro x hx1 hx2
  rw [Memory.read_zeroRange, if_pos (by omega)]

/-- A word apart from a zeroed range reads as before. -/
theorem Memory.readWord_zeroRange_apart (m : Memory) (a n : Nat) (b : PhysAddr)
    (h : a + n ≤ b.val.toNat ∨ b.val.toNat + 8 ≤ a) :
    Memory.readWord (Memory.zeroRange m a n) b = Memory.readWord m b :=
  Memory.readWord_congr _ _ _ fun x h1 h2 => by rw [Memory.read_zeroRange, if_neg (by omega)]

/-! ### The canonical form -/

theorem Memory.rising_iff (m : Memory) : ∀ lo : Option Nat,
    Memory.rising lo m = true ↔
      (∀ l, lo = some l → ∀ c ∈ m, l < c.1) ∧ m.Pairwise fun c d => c.1 < d.1 := by
  induction m with
  | nil => simp [Memory.rising]
  | cons c m ih =>
    intro lo
    obtain ⟨a, b⟩ := c
    cases lo with
    | none => simp [Memory.rising, ih]
    | some l =>
      simp only [Memory.rising, ih, Bool.and_eq_true, decide_eq_true_eq, Option.some.injEq, forall_eq',
        List.pairwise_cons, List.mem_cons, forall_eq_or_imp]
      constructor
      · rintro ⟨h1, h2, h3⟩
        exact ⟨⟨h1, fun c hc => by have := h2 c hc; omega⟩, h2, h3⟩
      · rintro ⟨⟨h1, _⟩, h2, h3⟩
        exact ⟨h1, h2, h3⟩

/-- The canonical form in words: addresses strictly rise and no entry equals what is unlisted. -/
theorem Memory.wf_iff (m : Memory) :
    m.wf = true ↔ m.Pairwise (fun c d => c.1 < d.1) ∧ ∀ c ∈ m, c.2 ≠ Config.unlistedByte := by
  simp [Memory.wf, Memory.rising_iff]

theorem Memory.wf_filter (m : Memory) (q : Host.Cell → Bool) (h : m.wf = true) :
    Memory.wf (m.filter q) = true := by
  rw [Memory.wf_iff] at h ⊢
  exact ⟨h.1.filter q, fun c hc => h.2 c (List.mem_filter.1 hc).1⟩

theorem Memory.mem_insert (m : Memory) (a : Nat) (b : Byte) (c : Host.Cell) :
    c ∈ Memory.insert m a b ↔ c = (a, b) ∨ c ∈ m := by
  induction m with
  | nil => simp [Memory.insert]
  | cons d m ih =>
    obtain ⟨k, v⟩ := d
    by_cases h : k < a
    · simp [Memory.insert, h, ih]; tauto
    · simp [Memory.insert, h]

theorem Memory.wf_insert (m : Memory) (a : Nat) (b : Byte) (h : m.wf = true) (hb : b ≠ Config.unlistedByte)
    (hn : ∀ c ∈ m, c.1 ≠ a) : (Memory.insert m a b).wf = true := by
  rw [Memory.wf_iff] at h ⊢
  refine ⟨?_, fun c hc => ?_⟩
  · obtain ⟨hp, -⟩ := h
    induction m with
    | nil => simp [Memory.insert]
    | cons d m ih =>
      obtain ⟨k, v⟩ := d
      rw [List.pairwise_cons] at hp
      have hk : k ≠ a := hn (k, v) (by simp)
      by_cases hlt : k < a
      · simp only [Memory.insert, hlt, if_true, List.pairwise_cons]
        refine ⟨fun c hc => ?_, ih (fun c hc => hn c (by simp [hc])) hp.2⟩
        rcases (Memory.mem_insert _ _ _ _).1 hc with rfl | hc
        · exact hlt
        · exact hp.1 c hc
      · simp only [Memory.insert, hlt, if_false, List.pairwise_cons, List.mem_cons, forall_eq_or_imp]
        exact ⟨⟨by omega, fun c hc => by have := hp.1 c hc; simp at this; omega⟩, hp⟩
  · rcases (Memory.mem_insert _ _ _ _).1 hc with rfl | hc
    · exact hb
    · exact h.2 c hc

theorem Memory.wf_write (m : Memory) (a : Nat) (b : Byte) (h : m.wf = true) : (Memory.write m a b).wf = true := by
  unfold Memory.write Memory.erase
  split
  · exact Memory.wf_filter _ _ h
  · next hb =>
    exact Memory.wf_insert _ _ _ (Memory.wf_filter _ _ h) hb fun c hc => by
      simpa using (List.mem_filter.1 hc).2

theorem Memory.wf_writeBytes (bs : List Byte) (m : Memory) (a : Nat) (h : m.wf = true) :
    (Memory.writeBytes m a bs).wf = true := by
  induction bs generalizing m a with
  | nil => exact h
  | cons b bs ih => exact ih _ _ (Memory.wf_write _ _ _ h)

theorem Memory.wf_writeWord (m : Memory) (a : PhysAddr) (w : Word) (h : m.wf = true) :
    (Memory.writeWord m a w).wf = true := Memory.wf_writeBytes _ _ _ h

theorem Memory.wf_zeroRange (m : Memory) (a n : Nat) (h : m.wf = true) : (Memory.zeroRange m a n).wf = true :=
  Memory.wf_filter _ _ h

theorem reset_memory_wf : State.reset.mem.wf = true := rfl

/-! ### The cells an operation can list -/

theorem Memory.mem_write {m : Memory} {a : Nat} {b : Byte} {c : Host.Cell} (h : c ∈ Memory.write m a b) :
    c = (a, b) ∨ c ∈ m := by
  unfold Memory.write Memory.erase at h
  split at h
  · exact .inr (List.mem_filter.1 h).1
  · rcases (Memory.mem_insert _ _ _ _).1 h with h | h
    · exact .inl h
    · exact .inr (List.mem_filter.1 h).1

/-- A run of writes lists no address outside the run that was not listed before. -/
theorem Memory.mem_writeBytes (bs : List Byte) {m : Memory} {a : Nat} {c : Host.Cell}
    (h : c ∈ Memory.writeBytes m a bs) : c ∈ m ∨ a ≤ c.1 ∧ c.1 < a + bs.length := by
  induction bs generalizing m a with
  | nil => exact .inl h
  | cons b bs ih =>
    rcases ih h with h | ⟨h1, h2⟩
    · rcases Memory.mem_write h with rfl | h
      · exact .inr ⟨le_refl _, by simp⟩
      · exact .inl h
    · exact .inr ⟨by omega, by simp; omega⟩

theorem Memory.mem_zeroRange {m : Memory} {a n : Nat} {c : Host.Cell} (h : c ∈ Memory.zeroRange m a n) : c ∈ m :=
  (List.mem_filter.1 h).1

end Sys2Proof.Machine
end

