-- ==== Sys2Proof/Laws/State.lean ====
section
/-! SUPPORT. One lemma per field of `State` per named update, so that no proof unfolds a record update. -/

namespace Sys2Proof.Machine

/-! ### `State.withFreeHead` -/

@[simp] theorem State.withFreeHead_freeHead (s : State) (f : PhysAddr) : (s.withFreeHead f).freeHead = f := rfl
@[simp] theorem State.withFreeHead_heapTop (s : State) (f : PhysAddr) : (s.withFreeHead f).heapTop = s.heapTop := rfl
@[simp] theorem State.withFreeHead_heapBase (s : State) (f : PhysAddr) :
    (s.withFreeHead f).heapBase = s.heapBase := rfl
@[simp] theorem State.withFreeHead_inited (s : State) (f : PhysAddr) : (s.withFreeHead f).inited = s.inited := rfl
@[simp] theorem State.withFreeHead_lock (s : State) (f : PhysAddr) : (s.withFreeHead f).lock = s.lock := rfl
@[simp] theorem State.withFreeHead_ptRoot (s : State) (f : PhysAddr) : (s.withFreeHead f).ptRoot = s.ptRoot := rfl
@[simp] theorem State.withFreeHead_ptValid (s : State) (f : PhysAddr) : (s.withFreeHead f).ptValid = s.ptValid := rfl
@[simp] theorem State.withFreeHead_activeRoot (s : State) (f : PhysAddr) :
    (s.withFreeHead f).activeRoot = s.activeRoot := rfl
@[simp] theorem State.withFreeHead_fatal (s : State) (f : PhysAddr) : (s.withFreeHead f).fatal = s.fatal := rfl
@[simp] theorem State.withFreeHead_fatalCause (s : State) (f : PhysAddr) :
    (s.withFreeHead f).fatalCause = s.fatalCause := rfl
@[simp] theorem State.withFreeHead_mem (s : State) (f : PhysAddr) : (s.withFreeHead f).mem = s.mem := rfl
@[simp] theorem State.withFreeHead_params (s : State) (f : PhysAddr) : (s.withFreeHead f).params = s.params := rfl
@[simp] theorem State.withFreeHead_inbox (s : State) (f : PhysAddr) : (s.withFreeHead f).inbox = s.inbox := rfl
@[simp] theorem State.withFreeHead_response (s : State) (f : PhysAddr) :
    (s.withFreeHead f).response = s.response := rfl
@[simp] theorem State.withFreeHead_resetDraws (s : State) (f : PhysAddr) :
    (s.withFreeHead f).resetDraws = s.resetDraws := rfl
@[simp] theorem State.withFreeHead_inMemory (s : State) (f : PhysAddr) (a : PhysAddr) (n : Nat) :
    (s.withFreeHead f).inMemory a n = s.inMemory a n := rfl
@[simp] theorem State.withFreeHead_heapExhausted (s : State) (f : PhysAddr) :
    (s.withFreeHead f).heapExhausted = s.heapExhausted := rfl

/-! ### `State.withHeapTop` -/

@[simp] theorem State.withHeapTop_freeHead (s : State) (f : PhysAddr) : (s.withHeapTop f).freeHead = s.freeHead := rfl
@[simp] theorem State.withHeapTop_heapTop (s : State) (f : PhysAddr) : (s.withHeapTop f).heapTop = f := rfl
@[simp] theorem State.withHeapTop_heapBase (s : State) (f : PhysAddr) : (s.withHeapTop f).heapBase = s.heapBase := rfl
@[simp] theorem State.withHeapTop_inited (s : State) (f : PhysAddr) : (s.withHeapTop f).inited = s.inited := rfl
@[simp] theorem State.withHeapTop_lock (s : State) (f : PhysAddr) : (s.withHeapTop f).lock = s.lock := rfl
@[simp] theorem State.withHeapTop_ptRoot (s : State) (f : PhysAddr) : (s.withHeapTop f).ptRoot = s.ptRoot := rfl
@[simp] theorem State.withHeapTop_ptValid (s : State) (f : PhysAddr) : (s.withHeapTop f).ptValid = s.ptValid := rfl
@[simp] theorem State.withHeapTop_activeRoot (s : State) (f : PhysAddr) :
    (s.withHeapTop f).activeRoot = s.activeRoot := rfl
@[simp] theorem State.withHeapTop_fatal (s : State) (f : PhysAddr) : (s.withHeapTop f).fatal = s.fatal := rfl
@[simp] theorem State.withHeapTop_fatalCause (s : State) (f : PhysAddr) :
    (s.withHeapTop f).fatalCause = s.fatalCause := rfl
@[simp] theorem State.withHeapTop_mem (s : State) (f : PhysAddr) : (s.withHeapTop f).mem = s.mem := rfl
@[simp] theorem State.withHeapTop_params (s : State) (f : PhysAddr) : (s.withHeapTop f).params = s.params := rfl
@[simp] theorem State.withHeapTop_inbox (s : State) (f : PhysAddr) : (s.withHeapTop f).inbox = s.inbox := rfl
@[simp] theorem State.withHeapTop_response (s : State) (f : PhysAddr) : (s.withHeapTop f).response = s.response := rfl
@[simp] theorem State.withHeapTop_resetDraws (s : State) (f : PhysAddr) :
    (s.withHeapTop f).resetDraws = s.resetDraws := rfl
@[simp] theorem State.withHeapTop_inMemory (s : State) (f : PhysAddr) (a : PhysAddr) (n : Nat) :
    (s.withHeapTop f).inMemory a n = s.inMemory a n := rfl

/-! ### `State.initialised` -/

@[simp] theorem State.initialised_freeHead (s : State) (f : PhysAddr) : (s.initialised f).freeHead = s.freeHead := rfl
@[simp] theorem State.initialised_heapTop (s : State) (f : PhysAddr) : (s.initialised f).heapTop = f := rfl
@[simp] theorem State.initialised_heapBase (s : State) (f : PhysAddr) : (s.initialised f).heapBase = f := rfl
@[simp] theorem State.initialised_inited (s : State) (f : PhysAddr) : (s.initialised f).inited = true := rfl
@[simp] theorem State.initialised_lock (s : State) (f : PhysAddr) : (s.initialised f).lock = s.lock := rfl
@[simp] theorem State.initialised_ptRoot (s : State) (f : PhysAddr) : (s.initialised f).ptRoot = s.ptRoot := rfl
@[simp] theorem State.initialised_ptValid (s : State) (f : PhysAddr) : (s.initialised f).ptValid = s.ptValid := rfl
@[simp] theorem State.initialised_activeRoot (s : State) (f : PhysAddr) :
    (s.initialised f).activeRoot = s.activeRoot := rfl
@[simp] theorem State.initialised_fatal (s : State) (f : PhysAddr) : (s.initialised f).fatal = s.fatal := rfl
@[simp] theorem State.initialised_fatalCause (s : State) (f : PhysAddr) :
    (s.initialised f).fatalCause = s.fatalCause := rfl
@[simp] theorem State.initialised_mem (s : State) (f : PhysAddr) : (s.initialised f).mem = s.mem := rfl
@[simp] theorem State.initialised_params (s : State) (f : PhysAddr) : (s.initialised f).params = s.params := rfl
@[simp] theorem State.initialised_inbox (s : State) (f : PhysAddr) : (s.initialised f).inbox = s.inbox := rfl
@[simp] theorem State.initialised_response (s : State) (f : PhysAddr) : (s.initialised f).response = s.response := rfl
@[simp] theorem State.initialised_resetDraws (s : State) (f : PhysAddr) :
    (s.initialised f).resetDraws = s.resetDraws := rfl
@[simp] theorem State.initialised_inMemory (s : State) (f : PhysAddr) (a : PhysAddr) (n : Nat) :
    (s.initialised f).inMemory a n = s.inMemory a n := rfl

/-! ### `State.withLock` -/

@[simp] theorem State.withLock_freeHead (s : State) (b : Bool) : (s.withLock b).freeHead = s.freeHead := rfl
@[simp] theorem State.withLock_heapTop (s : State) (b : Bool) : (s.withLock b).heapTop = s.heapTop := rfl
@[simp] theorem State.withLock_heapBase (s : State) (b : Bool) : (s.withLock b).heapBase = s.heapBase := rfl
@[simp] theorem State.withLock_inited (s : State) (b : Bool) : (s.withLock b).inited = s.inited := rfl
@[simp] theorem State.withLock_lock (s : State) (b : Bool) : (s.withLock b).lock = b := rfl
@[simp] theorem State.withLock_ptRoot (s : State) (b : Bool) : (s.withLock b).ptRoot = s.ptRoot := rfl
@[simp] theorem State.withLock_ptValid (s : State) (b : Bool) : (s.withLock b).ptValid = s.ptValid := rfl
@[simp] theorem State.withLock_activeRoot (s : State) (b : Bool) : (s.withLock b).activeRoot = s.activeRoot := rfl
@[simp] theorem State.withLock_fatal (s : State) (b : Bool) : (s.withLock b).fatal = s.fatal := rfl
@[simp] theorem State.withLock_fatalCause (s : State) (b : Bool) : (s.withLock b).fatalCause = s.fatalCause := rfl
@[simp] theorem State.withLock_mem (s : State) (b : Bool) : (s.withLock b).mem = s.mem := rfl
@[simp] theorem State.withLock_params (s : State) (b : Bool) : (s.withLock b).params = s.params := rfl
@[simp] theorem State.withLock_inbox (s : State) (b : Bool) : (s.withLock b).inbox = s.inbox := rfl
@[simp] theorem State.withLock_response (s : State) (b : Bool) : (s.withLock b).response = s.response := rfl
@[simp] theorem State.withLock_resetDraws (s : State) (b : Bool) : (s.withLock b).resetDraws = s.resetDraws := rfl
@[simp] theorem State.withLock_inMemory (s : State) (b : Bool) (a : PhysAddr) (n : Nat) :
    (s.withLock b).inMemory a n = s.inMemory a n := rfl
@[simp] theorem State.withLock_heapExhausted (s : State) (b : Bool) :
    (s.withLock b).heapExhausted = s.heapExhausted := rfl

/-! ### `State.withRoot` -/

@[simp] theorem State.withRoot_freeHead (s : State) (r : PhysAddr) : (s.withRoot r).freeHead = s.freeHead := rfl
@[simp] theorem State.withRoot_heapTop (s : State) (r : PhysAddr) : (s.withRoot r).heapTop = s.heapTop := rfl
@[simp] theorem State.withRoot_heapBase (s : State) (r : PhysAddr) : (s.withRoot r).heapBase = s.heapBase := rfl
@[simp] theorem State.withRoot_inited (s : State) (r : PhysAddr) : (s.withRoot r).inited = s.inited := rfl
@[simp] theorem State.withRoot_lock (s : State) (r : PhysAddr) : (s.withRoot r).lock = s.lock := rfl
@[simp] theorem State.withRoot_ptRoot (s : State) (r : PhysAddr) : (s.withRoot r).ptRoot = r := rfl
@[simp] theorem State.withRoot_ptValid (s : State) (r : PhysAddr) : (s.withRoot r).ptValid = true := rfl
@[simp] theorem State.withRoot_activeRoot (s : State) (r : PhysAddr) : (s.withRoot r).activeRoot = s.activeRoot := rfl
@[simp] theorem State.withRoot_fatal (s : State) (r : PhysAddr) : (s.withRoot r).fatal = s.fatal := rfl
@[simp] theorem State.withRoot_fatalCause (s : State) (r : PhysAddr) : (s.withRoot r).fatalCause = s.fatalCause := rfl
@[simp] theorem State.withRoot_mem (s : State) (r : PhysAddr) : (s.withRoot r).mem = s.mem := rfl
@[simp] theorem State.withRoot_params (s : State) (r : PhysAddr) : (s.withRoot r).params = s.params := rfl
@[simp] theorem State.withRoot_inbox (s : State) (r : PhysAddr) : (s.withRoot r).inbox = s.inbox := rfl
@[simp] theorem State.withRoot_response (s : State) (r : PhysAddr) : (s.withRoot r).response = s.response := rfl
@[simp] theorem State.withRoot_resetDraws (s : State) (r : PhysAddr) : (s.withRoot r).resetDraws = s.resetDraws := rfl
@[simp] theorem State.withRoot_inMemory (s : State) (r : PhysAddr) (a : PhysAddr) (n : Nat) :
    (s.withRoot r).inMemory a n = s.inMemory a n := rfl
@[simp] theorem State.withRoot_heapExhausted (s : State) (r : PhysAddr) :
    (s.withRoot r).heapExhausted = s.heapExhausted := rfl

/-! ### `State.withActiveRoot` -/

@[simp] theorem State.withActiveRoot_freeHead (s : State) (r : PhysAddr) :
    (s.withActiveRoot r).freeHead = s.freeHead := rfl
@[simp] theorem State.withActiveRoot_heapTop (s : State) (r : PhysAddr) :
    (s.withActiveRoot r).heapTop = s.heapTop := rfl
@[simp] theorem State.withActiveRoot_heapBase (s : State) (r : PhysAddr) :
    (s.withActiveRoot r).heapBase = s.heapBase := rfl
@[simp] theorem State.withActiveRoot_inited (s : State) (r : PhysAddr) : (s.withActiveRoot r).inited = s.inited := rfl
@[simp] theorem State.withActiveRoot_lock (s : State) (r : PhysAddr) : (s.withActiveRoot r).lock = s.lock := rfl
@[simp] theorem State.withActiveRoot_ptRoot (s : State) (r : PhysAddr) : (s.withActiveRoot r).ptRoot = s.ptRoot := rfl
@[simp] theorem State.withActiveRoot_ptValid (s : State) (r : PhysAddr) :
    (s.withActiveRoot r).ptValid = s.ptValid := rfl
@[simp] theorem State.withActiveRoot_activeRoot (s : State) (r : PhysAddr) :
    (s.withActiveRoot r).activeRoot = r := rfl
@[simp] theorem State.withActiveRoot_fatal (s : State) (r : PhysAddr) : (s.withActiveRoot r).fatal = s.fatal := rfl
@[simp] theorem State.withActiveRoot_fatalCause (s : State) (r : PhysAddr) :
    (s.withActiveRoot r).fatalCause = s.fatalCause := rfl
@[simp] theorem State.withActiveRoot_mem (s : State) (r : PhysAddr) : (s.withActiveRoot r).mem = s.mem := rfl
@[simp] theorem State.withActiveRoot_params (s : State) (r : PhysAddr) : (s.withActiveRoot r).params = s.params := rfl
@[simp] theorem State.withActiveRoot_inbox (s : State) (r : PhysAddr) : (s.withActiveRoot r).inbox = s.inbox := rfl
@[simp] theorem State.withActiveRoot_response (s : State) (r : PhysAddr) :
    (s.withActiveRoot r).response = s.response := rfl
@[simp] theorem State.withActiveRoot_resetDraws (s : State) (r : PhysAddr) :
    (s.withActiveRoot r).resetDraws = s.resetDraws := rfl
@[simp] theorem State.withActiveRoot_inMemory (s : State) (r : PhysAddr) (a : PhysAddr) (n : Nat) :
    (s.withActiveRoot r).inMemory a n = s.inMemory a n := rfl
@[simp] theorem State.withActiveRoot_heapExhausted (s : State) (r : PhysAddr) :
    (s.withActiveRoot r).heapExhausted = s.heapExhausted := rfl

/-! ### `State.withMem` -/

@[simp] theorem State.withMem_freeHead (s : State) (m : Memory) : (s.withMem m).freeHead = s.freeHead := rfl
@[simp] theorem State.withMem_heapTop (s : State) (m : Memory) : (s.withMem m).heapTop = s.heapTop := rfl
@[simp] theorem State.withMem_heapBase (s : State) (m : Memory) : (s.withMem m).heapBase = s.heapBase := rfl
@[simp] theorem State.withMem_inited (s : State) (m : Memory) : (s.withMem m).inited = s.inited := rfl
@[simp] theorem State.withMem_lock (s : State) (m : Memory) : (s.withMem m).lock = s.lock := rfl
@[simp] theorem State.withMem_ptRoot (s : State) (m : Memory) : (s.withMem m).ptRoot = s.ptRoot := rfl
@[simp] theorem State.withMem_ptValid (s : State) (m : Memory) : (s.withMem m).ptValid = s.ptValid := rfl
@[simp] theorem State.withMem_activeRoot (s : State) (m : Memory) : (s.withMem m).activeRoot = s.activeRoot := rfl
@[simp] theorem State.withMem_fatal (s : State) (m : Memory) : (s.withMem m).fatal = s.fatal := rfl
@[simp] theorem State.withMem_fatalCause (s : State) (m : Memory) : (s.withMem m).fatalCause = s.fatalCause := rfl
@[simp] theorem State.withMem_mem (s : State) (m : Memory) : (s.withMem m).mem = m := rfl
@[simp] theorem State.withMem_params (s : State) (m : Memory) : (s.withMem m).params = s.params := rfl
@[simp] theorem State.withMem_inbox (s : State) (m : Memory) : (s.withMem m).inbox = s.inbox := rfl
@[simp] theorem State.withMem_response (s : State) (m : Memory) : (s.withMem m).response = s.response := rfl
@[simp] theorem State.withMem_resetDraws (s : State) (m : Memory) : (s.withMem m).resetDraws = s.resetDraws := rfl
@[simp] theorem State.withMem_inMemory (s : State) (m : Memory) (a : PhysAddr) (n : Nat) :
    (s.withMem m).inMemory a n = s.inMemory a n := rfl
@[simp] theorem State.withMem_heapExhausted (s : State) (m : Memory) :
    (s.withMem m).heapExhausted = s.heapExhausted := rfl

/-! ### `State.withInbox` -/

@[simp] theorem State.withInbox_freeHead (s : State) (q : List HostAction) :
    (s.withInbox q).freeHead = s.freeHead := rfl
@[simp] theorem State.withInbox_heapTop (s : State) (q : List HostAction) : (s.withInbox q).heapTop = s.heapTop := rfl
@[simp] theorem State.withInbox_heapBase (s : State) (q : List HostAction) :
    (s.withInbox q).heapBase = s.heapBase := rfl
@[simp] theorem State.withInbox_inited (s : State) (q : List HostAction) : (s.withInbox q).inited = s.inited := rfl
@[simp] theorem State.withInbox_lock (s : State) (q : List HostAction) : (s.withInbox q).lock = s.lock := rfl
@[simp] theorem State.withInbox_ptRoot (s : State) (q : List HostAction) : (s.withInbox q).ptRoot = s.ptRoot := rfl
@[simp] theorem State.withInbox_ptValid (s : State) (q : List HostAction) : (s.withInbox q).ptValid = s.ptValid := rfl
@[simp] theorem State.withInbox_activeRoot (s : State) (q : List HostAction) :
    (s.withInbox q).activeRoot = s.activeRoot := rfl
@[simp] theorem State.withInbox_fatal (s : State) (q : List HostAction) : (s.withInbox q).fatal = s.fatal := rfl
@[simp] theorem State.withInbox_fatalCause (s : State) (q : List HostAction) :
    (s.withInbox q).fatalCause = s.fatalCause := rfl
@[simp] theorem State.withInbox_mem (s : State) (q : List HostAction) : (s.withInbox q).mem = s.mem := rfl
@[simp] theorem State.withInbox_params (s : State) (q : List HostAction) : (s.withInbox q).params = s.params := rfl
@[simp] theorem State.withInbox_inbox (s : State) (q : List HostAction) : (s.withInbox q).inbox = q := rfl
@[simp] theorem State.withInbox_response (s : State) (q : List HostAction) :
    (s.withInbox q).response = s.response := rfl
@[simp] theorem State.withInbox_resetDraws (s : State) (q : List HostAction) :
    (s.withInbox q).resetDraws = s.resetDraws := rfl
@[simp] theorem State.withInbox_inMemory (s : State) (q : List HostAction) (a : PhysAddr) (n : Nat) :
    (s.withInbox q).inMemory a n = s.inMemory a n := rfl
@[simp] theorem State.withInbox_heapExhausted (s : State) (q : List HostAction) :
    (s.withInbox q).heapExhausted = s.heapExhausted := rfl

/-! ### `State.respond` -/

@[simp] theorem State.respond_freeHead (s : State) (st : Status) (r0 r1 : Word) :
    (s.respond st r0 r1).freeHead = s.freeHead := rfl
@[simp] theorem State.respond_heapTop (s : State) (st : Status) (r0 r1 : Word) :
    (s.respond st r0 r1).heapTop = s.heapTop := rfl
@[simp] theorem State.respond_heapBase (s : State) (st : Status) (r0 r1 : Word) :
    (s.respond st r0 r1).heapBase = s.heapBase := rfl
@[simp] theorem State.respond_inited (s : State) (st : Status) (r0 r1 : Word) :
    (s.respond st r0 r1).inited = s.inited := rfl
@[simp] theorem State.respond_lock (s : State) (st : Status) (r0 r1 : Word) :
    (s.respond st r0 r1).lock = s.lock := rfl
@[simp] theorem State.respond_ptRoot (s : State) (st : Status) (r0 r1 : Word) :
    (s.respond st r0 r1).ptRoot = s.ptRoot := rfl
@[simp] theorem State.respond_ptValid (s : State) (st : Status) (r0 r1 : Word) :
    (s.respond st r0 r1).ptValid = s.ptValid := rfl
@[simp] theorem State.respond_activeRoot (s : State) (st : Status) (r0 r1 : Word) :
    (s.respond st r0 r1).activeRoot = s.activeRoot := rfl
@[simp] theorem State.respond_fatal (s : State) (st : Status) (r0 r1 : Word) :
    (s.respond st r0 r1).fatal = s.fatal := rfl
@[simp] theorem State.respond_fatalCause (s : State) (st : Status) (r0 r1 : Word) :
    (s.respond st r0 r1).fatalCause = s.fatalCause := rfl
@[simp] theorem State.respond_mem (s : State) (st : Status) (r0 r1 : Word) : (s.respond st r0 r1).mem = s.mem := rfl
@[simp] theorem State.respond_params (s : State) (st : Status) (r0 r1 : Word) :
    (s.respond st r0 r1).params = s.params := rfl
@[simp] theorem State.respond_inbox (s : State) (st : Status) (r0 r1 : Word) :
    (s.respond st r0 r1).inbox = s.inbox := rfl
@[simp] theorem State.respond_response (s : State) (st : Status) (r0 r1 : Word) :
    (s.respond st r0 r1).response = some ⟨st, r0, r1⟩ := rfl
@[simp] theorem State.respond_resetDraws (s : State) (st : Status) (r0 r1 : Word) :
    (s.respond st r0 r1).resetDraws = s.resetDraws := rfl
@[simp] theorem State.respond_inMemory (s : State) (st : Status) (r0 r1 : Word) (a : PhysAddr) (n : Nat) :
    (s.respond st r0 r1).inMemory a n = s.inMemory a n := rfl
@[simp] theorem State.respond_heapExhausted (s : State) (st : Status) (r0 r1 : Word) :
    (s.respond st r0 r1).heapExhausted = s.heapExhausted := rfl

/-! ### `State.raiseFatal` -/

@[simp] theorem State.raiseFatal_freeHead (s : State) (c : FatalCause) : (s.raiseFatal c).freeHead = s.freeHead := rfl
@[simp] theorem State.raiseFatal_heapTop (s : State) (c : FatalCause) : (s.raiseFatal c).heapTop = s.heapTop := rfl
@[simp] theorem State.raiseFatal_heapBase (s : State) (c : FatalCause) : (s.raiseFatal c).heapBase = s.heapBase := rfl
@[simp] theorem State.raiseFatal_inited (s : State) (c : FatalCause) : (s.raiseFatal c).inited = s.inited := rfl
@[simp] theorem State.raiseFatal_lock (s : State) (c : FatalCause) : (s.raiseFatal c).lock = false := rfl
@[simp] theorem State.raiseFatal_ptRoot (s : State) (c : FatalCause) : (s.raiseFatal c).ptRoot = s.ptRoot := rfl
@[simp] theorem State.raiseFatal_ptValid (s : State) (c : FatalCause) : (s.raiseFatal c).ptValid = s.ptValid := rfl
@[simp] theorem State.raiseFatal_activeRoot (s : State) (c : FatalCause) :
    (s.raiseFatal c).activeRoot = s.activeRoot := rfl
@[simp] theorem State.raiseFatal_fatal (s : State) (c : FatalCause) : (s.raiseFatal c).fatal = true := rfl
@[simp] theorem State.raiseFatal_fatalCause (s : State) (c : FatalCause) : (s.raiseFatal c).fatalCause = c.code := rfl
@[simp] theorem State.raiseFatal_mem (s : State) (c : FatalCause) : (s.raiseFatal c).mem = s.mem := rfl
@[simp] theorem State.raiseFatal_params (s : State) (c : FatalCause) : (s.raiseFatal c).params = s.params := rfl
@[simp] theorem State.raiseFatal_inbox (s : State) (c : FatalCause) : (s.raiseFatal c).inbox = s.inbox := rfl
@[simp] theorem State.raiseFatal_response (s : State) (c : FatalCause) :
    (s.raiseFatal c).response = some ⟨.fatal, c.code.setWidth 64, 0⟩ := rfl
@[simp] theorem State.raiseFatal_resetDraws (s : State) (c : FatalCause) :
    (s.raiseFatal c).resetDraws = s.resetDraws := rfl
@[simp] theorem State.raiseFatal_inMemory (s : State) (c : FatalCause) (a : PhysAddr) (n : Nat) :
    (s.raiseFatal c).inMemory a n = s.inMemory a n := rfl

/-! ### `State.respondFatal` -/

@[simp] theorem State.respondFatal_freeHead (s : State) : s.respondFatal.freeHead = s.freeHead := rfl
@[simp] theorem State.respondFatal_heapTop (s : State) : s.respondFatal.heapTop = s.heapTop := rfl
@[simp] theorem State.respondFatal_heapBase (s : State) : s.respondFatal.heapBase = s.heapBase := rfl
@[simp] theorem State.respondFatal_inited (s : State) : s.respondFatal.inited = s.inited := rfl
@[simp] theorem State.respondFatal_lock (s : State) : s.respondFatal.lock = s.lock := rfl
@[simp] theorem State.respondFatal_ptRoot (s : State) : s.respondFatal.ptRoot = s.ptRoot := rfl
@[simp] theorem State.respondFatal_ptValid (s : State) : s.respondFatal.ptValid = s.ptValid := rfl
@[simp] theorem State.respondFatal_activeRoot (s : State) : s.respondFatal.activeRoot = s.activeRoot := rfl
@[simp] theorem State.respondFatal_fatal (s : State) : s.respondFatal.fatal = s.fatal := rfl
@[simp] theorem State.respondFatal_fatalCause (s : State) : s.respondFatal.fatalCause = s.fatalCause := rfl
@[simp] theorem State.respondFatal_mem (s : State) : s.respondFatal.mem = s.mem := rfl
@[simp] theorem State.respondFatal_params (s : State) : s.respondFatal.params = s.params := rfl
@[simp] theorem State.respondFatal_inbox (s : State) : s.respondFatal.inbox = s.inbox := rfl
@[simp] theorem State.respondFatal_response (s : State) :
    s.respondFatal.response = some ⟨.fatal, s.fatalCause.setWidth 64, 0⟩ := rfl
@[simp] theorem State.respondFatal_resetDraws (s : State) : s.respondFatal.resetDraws = s.resetDraws := rfl
@[simp] theorem State.respondFatal_inMemory (s : State) (a : PhysAddr) (n : Nat) :
    s.respondFatal.inMemory a n = s.inMemory a n := rfl

/-! ### `State.applyReset` -/

@[simp] theorem State.applyReset_freeHead (s : State) : s.applyReset.freeHead = ⟨0⟩ := rfl
@[simp] theorem State.applyReset_heapTop (s : State) : s.applyReset.heapTop = ⟨0⟩ := rfl
@[simp] theorem State.applyReset_heapBase (s : State) : s.applyReset.heapBase = ⟨0⟩ := rfl
@[simp] theorem State.applyReset_inited (s : State) : s.applyReset.inited = false := rfl
@[simp] theorem State.applyReset_lock (s : State) : s.applyReset.lock = false := rfl
@[simp] theorem State.applyReset_ptRoot (s : State) : s.applyReset.ptRoot = ⟨0⟩ := rfl
@[simp] theorem State.applyReset_ptValid (s : State) : s.applyReset.ptValid = false := rfl
@[simp] theorem State.applyReset_activeRoot (s : State) :
    s.applyReset.activeRoot = ⟨Config.activeRootAfterReset s.resetDraws⟩ := rfl
@[simp] theorem State.applyReset_fatal (s : State) : s.applyReset.fatal = false := rfl
@[simp] theorem State.applyReset_fatalCause (s : State) : s.applyReset.fatalCause = 0 := rfl
@[simp] theorem State.applyReset_mem (s : State) : s.applyReset.mem = s.mem := rfl
@[simp] theorem State.applyReset_params (s : State) : s.applyReset.params = s.params := rfl
@[simp] theorem State.applyReset_inbox (s : State) : s.applyReset.inbox = s.inbox := rfl
@[simp] theorem State.applyReset_response (s : State) : s.applyReset.response = Option.none := rfl
@[simp] theorem State.applyReset_resetDraws (s : State) : s.applyReset.resetDraws = s.resetDraws + 1 := rfl
@[simp] theorem State.applyReset_inMemory (s : State) (a : PhysAddr) (n : Nat) :
    s.applyReset.inMemory a n = s.inMemory a n := rfl

/-! ### `lockRelease` -/

@[simp] theorem lockRelease_freeHead (s : State) : (lockRelease s).freeHead = s.freeHead := rfl
@[simp] theorem lockRelease_heapTop (s : State) : (lockRelease s).heapTop = s.heapTop := rfl
@[simp] theorem lockRelease_heapBase (s : State) : (lockRelease s).heapBase = s.heapBase := rfl
@[simp] theorem lockRelease_inited (s : State) : (lockRelease s).inited = s.inited := rfl
@[simp] theorem lockRelease_lock (s : State) : (lockRelease s).lock = false := rfl
@[simp] theorem lockRelease_ptRoot (s : State) : (lockRelease s).ptRoot = s.ptRoot := rfl
@[simp] theorem lockRelease_ptValid (s : State) : (lockRelease s).ptValid = s.ptValid := rfl
@[simp] theorem lockRelease_activeRoot (s : State) : (lockRelease s).activeRoot = s.activeRoot := rfl
@[simp] theorem lockRelease_fatal (s : State) : (lockRelease s).fatal = s.fatal := rfl
@[simp] theorem lockRelease_fatalCause (s : State) : (lockRelease s).fatalCause = s.fatalCause := rfl
@[simp] theorem lockRelease_mem (s : State) : (lockRelease s).mem = s.mem := rfl
@[simp] theorem lockRelease_params (s : State) : (lockRelease s).params = s.params := rfl
@[simp] theorem lockRelease_inbox (s : State) : (lockRelease s).inbox = s.inbox := rfl
@[simp] theorem lockRelease_response (s : State) : (lockRelease s).response = s.response := rfl
@[simp] theorem lockRelease_resetDraws (s : State) : (lockRelease s).resetDraws = s.resetDraws := rfl
@[simp] theorem lockRelease_inMemory (s : State) (a : PhysAddr) (n : Nat) :
    (lockRelease s).inMemory a n = s.inMemory a n := rfl
@[simp] theorem lockRelease_heapExhausted (s : State) :
    (lockRelease s).heapExhausted = s.heapExhausted := rfl

/-! ### Writing a field twice, or with the value it holds -/

@[simp] theorem State.withLock_withLock (s : State) (b c : Bool) : (s.withLock b).withLock c = s.withLock c := rfl
@[simp] theorem State.withMem_withMem (s : State) (m n : Memory) : (s.withMem m).withMem n = s.withMem n := rfl
theorem State.withLock_self (s : State) : s.withLock s.lock = s := rfl
@[simp] theorem State.withMem_self (s : State) : s.withMem s.mem = s := rfl

theorem State.withLock_of_eq {s : State} {b : Bool} (h : s.lock = b) : s.withLock b = s := by
  subst h; rfl

/-! ### `inMemory` and `heapExhausted` in words -/

theorem State.inMemory_iff (s : State) (a : PhysAddr) (n : Nat) :
    s.inMemory a n = true ↔ a.val.toNat + n ≤ s.params.memSize ∧ a.val.toNat + n ≤ 2 ^ 64 := by
  simp [State.inMemory]

theorem State.inMemory_congr {s t : State} (h : t.params = s.params) (a : PhysAddr) (n : Nat) :
    t.inMemory a n = s.inMemory a n := by
  simp [State.inMemory, h]

theorem State.heapExhausted_iff (s : State) :
    s.heapExhausted = true ↔ s.params.heapLimit < s.heapTop.val.toNat + Config.frameSize := by
  simp [State.heapExhausted]

end Sys2Proof.Machine
end

