-- ==== Sys2Proof/Laws/Ops.lean ====
section
/-! SUPPORT. One inversion lemma per shared operation and procedure: everything it can do, said once, so that proofs cite
it instead of unfolding the operation. -/

namespace Sys2Proof.Machine

variable {α β : Type}

/-! ### Sequencing -/

@[simp] theorem Eff.bind_done (a : α) (s : State) (k : α → State → Eff β) : (Eff.done a s).bind k = k a s := rfl
@[simp] theorem Eff.bind_raised (c : FatalCause) (s : State) (k : α → State → Eff β) :
    (Eff.raised c s : Eff α).bind k = .raised c s := rfl
@[simp] theorem Eff.bind_hung (k : α → State → Eff β) : (Eff.hung : Eff α).bind k = .hung := rfl

theorem Eff.bind_eq_done {e : Eff α} {k : α → State → Eff β} {b : β} {t : State} :
    e.bind k = .done b t ↔ ∃ a s, e = .done a s ∧ k a s = .done b t := by
  cases e <;> simp

theorem Eff.bind_eq_raised {e : Eff α} {k : α → State → Eff β} {c : FatalCause} {t : State} :
    e.bind k = .raised c t ↔ e = .raised c t ∨ ∃ a s, e = .done a s ∧ k a s = .raised c t := by
  cases e <;> simp

theorem Eff.bind_eq_hung {e : Eff α} {k : α → State → Eff β} :
    e.bind k = .hung ↔ e = .hung ∨ ∃ a s, e = .done a s ∧ k a s = .hung := by
  cases e <;> simp

theorem Eff.bind_assoc {γ : Type} (e : Eff α) (k : α → State → Eff β) (l : β → State → Eff γ) :
    (e.bind k).bind l = e.bind fun a s => (k a s).bind l := by
  cases e <;> rfl

/-! ### Ending a command -/

@[simp] theorem Eff.finish_done (r : Response) (s : State) :
    (Eff.done r s).finish = .next (s.respond r.status r.r0 r.r1) := rfl
@[simp] theorem Eff.finish_raised (c : FatalCause) (s : State) :
    (Eff.raised c s : Eff Response).finish = .next (s.raiseFatal c) := rfl
@[simp] theorem Eff.finish_hung : (Eff.hung : Eff Response).finish = .fault .lockHeld := rfl

/-- A command that answers a next state has ended with a response or in the fatal state. -/
theorem Eff.finish_eq_next {e : Eff Response} {t : State} :
    e.finish = .next t ↔ (∃ r s, e = .done r s ∧ t = s.respond r.status r.r0 r.r1) ∨
      ∃ c s, e = .raised c s ∧ t = s.raiseFatal c := by
  cases e <;> simp [Eff.finish, eq_comm]

theorem Eff.finish_eq_fault {e : Eff Response} {r : Fault} : e.finish = .fault r ↔ e = .hung ∧ r = .lockHeld := by
  cases e <;> simp [Eff.finish, eq_comm]

theorem Eff.finish_ne_refused (e : Eff Response) (r : Refusal) : e.finish ≠ .refused r := by
  cases e <;> simp [Eff.finish]

/-! ### What a procedure leaves -/

/-- `R` holds of the state a procedure leaves, whether it yields or raises. -/
def Eff.Leaves (R : State → Prop) : Eff α → Prop
  | .done _ s => R s
  | .raised _ s => R s
  | .hung => True

@[simp] theorem Eff.leaves_done (R : State → Prop) (a : α) (s : State) : (Eff.done a s).Leaves R ↔ R s := Iff.rfl
@[simp] theorem Eff.leaves_raised (R : State → Prop) (c : FatalCause) (s : State) :
    (Eff.raised c s : Eff α).Leaves R ↔ R s := Iff.rfl
@[simp] theorem Eff.leaves_hung (R : State → Prop) : (Eff.hung : Eff α).Leaves R ↔ True := Iff.rfl

/-- A property survives a sequence that each part keeps. -/
theorem Eff.leaves_bind {R : State → Prop} {e : Eff α} {k : α → State → Eff β} (he : e.Leaves R)
    (hk : ∀ a s, e = .done a s → R s → (k a s).Leaves R) : (e.bind k).Leaves R := by
  cases e with
  | done a s => exact hk a s rfl he
  | raised c s => exact he
  | hung => trivial

/-- What a command's next state inherits from the procedure it ran. -/
theorem Eff.finish_leaves {R : State → Prop} {e : Eff Response} {t : State} (he : e.Leaves R) (h : e.finish = .next t)
    (hr : ∀ s st r0 r1, R s → R (s.respond st r0 r1)) (hf : ∀ s c, R s → R (s.raiseFatal c)) : R t := by
  rcases Eff.finish_eq_next.1 h with ⟨r, s, rfl, rfl⟩ | ⟨c, s, rfl, rfl⟩
  · exact hr _ _ _ _ he
  · exact hf _ _ he

/-! ### Memory access -/

theorem memRead_eq_done {a : PhysAddr} {s t : State} {w : Word} :
    memRead a s = .done w t ↔ s.inMemory a 8 = true ∧ s.mem.readWord a = w ∧ s = t := by
  unfold memRead; split <;> simp_all

theorem memRead_eq_raised {a : PhysAddr} {s t : State} {c : FatalCause} :
    memRead a s = .raised c t ↔ s.inMemory a 8 = false ∧ .bus = c ∧ s = t := by
  unfold memRead; split <;> simp_all

theorem memWrite_eq_done {a : PhysAddr} {w : Word} {s t : State} :
    memWrite a w s = .done () t ↔ s.inMemory a 8 = true ∧ s.withMem (s.mem.writeWord a w) = t := by
  unfold memWrite; split <;> simp_all

theorem memWrite_eq_raised {a : PhysAddr} {w : Word} {s t : State} {c : FatalCause} :
    memWrite a w s = .raised c t ↔ s.inMemory a 8 = false ∧ .bus = c ∧ s = t := by
  unfold memWrite; split <;> simp_all

theorem zeroFrame_eq_done {f : PhysAddr} {s t : State} :
    zeroFrame f s = .done () t ↔ s.inMemory f Config.frameSize = true ∧
      s.withMem (s.mem.zeroRange f.val.toNat Config.frameSize) = t := by
  unfold zeroFrame; split <;> simp_all

theorem zeroFrame_eq_raised {f : PhysAddr} {s t : State} {c : FatalCause} :
    zeroFrame f s = .raised c t ↔ s.inMemory f Config.frameSize = false ∧ .bus = c ∧ s = t := by
  unfold zeroFrame; split <;> simp_all

@[simp] theorem memRead_ne_hung (a : PhysAddr) (s : State) : memRead a s ≠ .hung := by
  unfold memRead; split <;> simp

@[simp] theorem memWrite_ne_hung (a : PhysAddr) (w : Word) (s : State) : memWrite a w s ≠ .hung := by
  unfold memWrite; split <;> simp

@[simp] theorem zeroFrame_ne_hung (f : PhysAddr) (s : State) : zeroFrame f s ≠ .hung := by
  unfold zeroFrame; split <;> simp

/-- `MemRead` where the word lies in memory. -/
theorem memRead_inMemory {a : PhysAddr} {s : State} (h : s.inMemory a 8 = true) :
    memRead a s = .done (s.mem.readWord a) s := by
  simp [memRead, h]

/-- `MemWrite` where the word lies in memory. -/
theorem memWrite_inMemory {a : PhysAddr} {s : State} (w : Word) (h : s.inMemory a 8 = true) :
    memWrite a w s = .done () (s.withMem (s.mem.writeWord a w)) := by
  simp [memWrite, h]

/-- `ZeroFrame` where the frame lies in memory. -/
theorem zeroFrame_inMemory {f : PhysAddr} {s : State} (h : s.inMemory f Config.frameSize = true) :
    zeroFrame f s = .done () (s.withMem (s.mem.zeroRange f.val.toNat Config.frameSize)) := by
  simp [zeroFrame, h]

/-! ### The lock -/

theorem lockAcquire_eq_done {s t : State} :
    lockAcquire s = .done () t ↔ s.lock = false ∧ s.withLock true = t := by
  unfold lockAcquire; split <;> simp_all

theorem lockAcquire_eq_hung {s : State} : lockAcquire s = .hung ↔ s.lock = true := by
  unfold lockAcquire; split <;> simp_all

@[simp] theorem lockAcquire_ne_raised (s t : State) (c : FatalCause) : lockAcquire s ≠ .raised c t := by
  unfold lockAcquire; split <;> simp

/-! ### The allocator -/

/-- R67: a bump frame is left. -/
theorem State.heapExhausted_eq_false {s : State} :
    s.heapExhausted = false ↔ s.heapTop.val.toNat + 4096 ≤ s.params.heapLimit := decide_eq_false_iff_not.trans Nat.not_lt

theorem alloc_not_inited {s : State} (hi : s.inited = false) : alloc s = .raised .order s := by
  simp [alloc, hi]

theorem alloc_locked {s : State} (hi : s.inited = true) (hl : s.lock = true) : alloc s = .hung := by
  simp [alloc, hi, lockAcquire, hl]

/-- The free-list path of `Alloc()`: the head is popped. -/
theorem alloc_pop {s : State} (hi : s.inited = true) (hl : s.lock = false) (hf : s.freeHead ≠ freeNil)
    (hm : s.inMemory s.freeHead 8 = true) :
    alloc s = .done (some s.freeHead) (s.withFreeHead ⟨s.mem.readWord s.freeHead⟩) := by
  simp [alloc, hi, lockAcquire, hl, hf, allocPop, memRead, hm, lockRelease]
  cases s; simp_all [State.withLock, State.withFreeHead]

/-- The free-list path of `Alloc()` with a head whose first word lies beyond memory. -/
theorem alloc_pop_bus {s : State} (hi : s.inited = true) (hl : s.lock = false) (hf : s.freeHead ≠ freeNil)
    (hm : s.inMemory s.freeHead 8 = false) : alloc s = .raised .bus (s.withLock true) := by
  simp [alloc, hi, lockAcquire, hl, hf, allocPop, memRead, hm]

/-- The bump path of `Alloc()`: the cursor moves, and the frame is zeroed. -/
theorem alloc_bump {s : State} (hi : s.inited = true) (hl : s.lock = false) (hf : s.freeHead = freeNil)
    (hx : s.heapExhausted = false) (hm : s.inMemory s.heapTop Config.frameSize = true) :
    alloc s = .done (some s.heapTop)
      ((s.withHeapTop (s.heapTop.add (BitVec.ofNat 64 Config.frameSize))).withMem
        (s.mem.zeroRange s.heapTop.val.toNat Config.frameSize)) := by
  simp [alloc, hi, lockAcquire, hl, hf, hx, allocBump, zeroFrame, hm, lockRelease]
  cases s; simp_all [State.withLock, State.withHeapTop, State.withMem]

/-- The bump path of `Alloc()` with a frame that does not lie in memory: the cursor has moved. -/
theorem alloc_bump_bus {s : State} (hi : s.inited = true) (hl : s.lock = false) (hf : s.freeHead = freeNil)
    (hx : s.heapExhausted = false) (hm : s.inMemory s.heapTop Config.frameSize = false) :
    alloc s = .raised .bus
      ((s.withLock true).withHeapTop (s.heapTop.add (BitVec.ofNat 64 Config.frameSize))) := by
  simp [alloc, hi, lockAcquire, hl, hf, hx, allocBump, zeroFrame, hm]

/-- The bump path exhausted: nothing is changed (R67). -/
theorem alloc_exhausted {s : State} (hi : s.inited = true) (hl : s.lock = false) (hf : s.freeHead = freeNil)
    (hx : s.heapExhausted = true) : alloc s = .done none s := by
  simp [alloc, hi, lockAcquire, hl, hf, hx, lockRelease, State.withLock_of_eq hl]

/-- Everything `Alloc()` can do (R66, R67). -/
theorem alloc_cases (s : State) :
    (s.inited = false ∧ alloc s = .raised .order s) ∨
    (s.inited = true ∧ s.lock = true ∧ alloc s = .hung) ∨
    (s.inited = true ∧ s.lock = false ∧
      ((s.freeHead ≠ freeNil ∧ s.inMemory s.freeHead 8 = true ∧
          alloc s = .done (some s.freeHead) (s.withFreeHead ⟨s.mem.readWord s.freeHead⟩)) ∨
       (s.freeHead ≠ freeNil ∧ s.inMemory s.freeHead 8 = false ∧ alloc s = .raised .bus (s.withLock true)) ∨
       (s.freeHead = freeNil ∧ s.heapExhausted = true ∧ alloc s = .done none s) ∨
       (s.freeHead = freeNil ∧ s.heapExhausted = false ∧ s.inMemory s.heapTop Config.frameSize = true ∧
          alloc s = .done (some s.heapTop)
            ((s.withHeapTop (s.heapTop.add (BitVec.ofNat 64 Config.frameSize))).withMem
              (s.mem.zeroRange s.heapTop.val.toNat Config.frameSize))) ∨
       (s.freeHead = freeNil ∧ s.heapExhausted = false ∧ s.inMemory s.heapTop Config.frameSize = false ∧
          alloc s = .raised .bus
            ((s.withLock true).withHeapTop (s.heapTop.add (BitVec.ofNat 64 Config.frameSize)))))) := by
  by_cases hi : s.inited = true
  · by_cases hl : s.lock = true
    · exact .inr (.inl ⟨hi, hl, alloc_locked hi hl⟩)
    · rw [Bool.not_eq_true] at hl
      refine .inr (.inr ⟨hi, hl, ?_⟩)
      by_cases hf : s.freeHead = freeNil
      · by_cases hx : s.heapExhausted = true
        · exact .inr (.inr (.inl ⟨hf, hx, alloc_exhausted hi hl hf hx⟩))
        · rw [Bool.not_eq_true] at hx
          by_cases hm : s.inMemory s.heapTop Config.frameSize = true
          · exact .inr (.inr (.inr (.inl ⟨hf, hx, hm, alloc_bump hi hl hf hx hm⟩)))
          · rw [Bool.not_eq_true] at hm
            exact .inr (.inr (.inr (.inr ⟨hf, hx, hm, alloc_bump_bus hi hl hf hx hm⟩)))
      · by_cases hm : s.inMemory s.freeHead 8 = true
        · exact .inl ⟨hf, hm, alloc_pop hi hl hf hm⟩
        · rw [Bool.not_eq_true] at hm
          exact .inr (.inl ⟨hf, hm, alloc_pop_bus hi hl hf hm⟩)
  · rw [Bool.not_eq_true] at hi
    exact .inl ⟨hi, alloc_not_inited hi⟩

/-- Everything `Free(f)` can do (R68). -/
theorem free_cases (f : PhysAddr) (s : State) :
    (s.inited = false ∧ free f s = .raised .order s) ∨
    (s.inited = true ∧ s.lock = true ∧ free f s = .hung) ∨
    (s.inited = true ∧ s.lock = false ∧
      ((s.inMemory f 8 = true ∧
          free f s = .done () ((s.withFreeHead f).withMem (s.mem.writeWord f s.freeHead.val))) ∨
       (s.inMemory f 8 = false ∧ free f s = .raised .bus (s.withLock true)))) := by
  by_cases hi : s.inited = true
  · by_cases hl : s.lock = true
    · exact .inr (.inl ⟨hi, hl, by simp [free, hi, lockAcquire, hl]⟩)
    · rw [Bool.not_eq_true] at hl
      refine .inr (.inr ⟨hi, hl, ?_⟩)
      by_cases hm : s.inMemory f 8 = true
      · refine .inl ⟨hm, ?_⟩
        simp [free, hi, lockAcquire, hl, memWrite, hm, lockRelease]
        cases s; simp_all [State.withLock, State.withFreeHead, State.withMem]
      · rw [Bool.not_eq_true] at hm
        exact .inr ⟨hm, by simp [free, hi, lockAcquire, hl, memWrite, hm]⟩
  · rw [Bool.not_eq_true] at hi
    exact .inl ⟨hi, by simp [free, hi]⟩

end Sys2Proof.Machine
end

