-- ==== Sys2Proof/Laws/PerInstr.lean ====
section
/-! SUPPORT. Statements about every command as syntax, one lemma per constructor.

`EncodeLegal` (spec/30_encoding.md R30, R32, R33): a command's opcode is a row of the opcode map, its packet carries that
opcode with no reserved bit set, and the operand words the command does not read are sent as zero. -/

namespace Sys2Proof.Laws

/-- The packet of a command: its opcode assigned, its reserved field zero, its operands first and zeros after. -/
def EncodeLegal.Statement (i : Instr) : Prop :=
  i.opcode ∈ assignedOpcodes ∧ (encode i).opcode = i.opcode ∧ (encode i).rsvd = 0 ∧
    [(encode i).a0, (encode i).a1, (encode i).a2, (encode i).a3]
      = i.operands ++ List.replicate (4 - i.operands.length) 0

/-- What a command's opcode and its number of operands decide. -/
theorem encodeLegal_of_opcode (i : Instr) (h : i.opcode ∈ assignedOpcodes)
    (hl : [(encode i).a0, (encode i).a1, (encode i).a2, (encode i).a3]
      = i.operands ++ List.replicate (4 - i.operands.length) 0) : EncodeLegal.Statement i := by
  refine ⟨h, ?_, ?_, hl⟩
  · have key : ∀ op ∈ assignedOpcodes, (op.setWidth 64).extractLsb' 0 8 = op := by decide
    exact key _ h
  · have key : ∀ op ∈ assignedOpcodes, (op.setWidth 64).extractLsb' 8 56 = 0 := by decide
    exact key _ h

theorem EncodeLegal.vaIndex (a : VirtAddr) (b : Word) : EncodeLegal.Statement (.vaIndex a b) :=
  encodeLegal_of_opcode _ (by simp [assignedOpcodes, Instr.opcode]) rfl

theorem EncodeLegal.vaOffset (a : VirtAddr) : EncodeLegal.Statement (.vaOffset a) :=
  encodeLegal_of_opcode _ (by simp [assignedOpcodes, Instr.opcode]) rfl

theorem EncodeLegal.addrAdd (a : Word) (b : Word) : EncodeLegal.Statement (.addrAdd a b) :=
  encodeLegal_of_opcode _ (by simp [assignedOpcodes, Instr.opcode]) rfl

theorem EncodeLegal.addrSub (a : Word) (b : Word) : EncodeLegal.Statement (.addrSub a b) :=
  encodeLegal_of_opcode _ (by simp [assignedOpcodes, Instr.opcode]) rfl

theorem EncodeLegal.pteNewPage (a : PhysAddr) (b : FlagWord) : EncodeLegal.Statement (.pteNewPage a b) :=
  encodeLegal_of_opcode _ (by simp [assignedOpcodes, Instr.opcode]) rfl

theorem EncodeLegal.pteNewTable (a : PhysAddr) : EncodeLegal.Statement (.pteNewTable a) :=
  encodeLegal_of_opcode _ (by simp [assignedOpcodes, Instr.opcode]) rfl

theorem EncodeLegal.pteSetFlags (a : Pte) (b : FlagWord) : EncodeLegal.Statement (.pteSetFlags a b) :=
  encodeLegal_of_opcode _ (by simp [assignedOpcodes, Instr.opcode]) rfl

theorem EncodeLegal.pteSetAddr (a : Pte) (b : PhysAddr) : EncodeLegal.Statement (.pteSetAddr a b) :=
  encodeLegal_of_opcode _ (by simp [assignedOpcodes, Instr.opcode]) rfl

theorem EncodeLegal.pteSetUnused (a : Pte) : EncodeLegal.Statement (.pteSetUnused a) :=
  encodeLegal_of_opcode _ (by simp [assignedOpcodes, Instr.opcode]) rfl

theorem EncodeLegal.pteIsUnused (a : Pte) : EncodeLegal.Statement (.pteIsUnused a) :=
  encodeLegal_of_opcode _ (by simp [assignedOpcodes, Instr.opcode]) rfl

theorem EncodeLegal.pteIsPresent (a : Pte) : EncodeLegal.Statement (.pteIsPresent a) :=
  encodeLegal_of_opcode _ (by simp [assignedOpcodes, Instr.opcode]) rfl

theorem EncodeLegal.ptePhysAddr (a : Pte) : EncodeLegal.Statement (.ptePhysAddr a) :=
  encodeLegal_of_opcode _ (by simp [assignedOpcodes, Instr.opcode]) rfl

theorem EncodeLegal.pteFlags (a : Pte) : EncodeLegal.Statement (.pteFlags a) :=
  encodeLegal_of_opcode _ (by simp [assignedOpcodes, Instr.opcode]) rfl

theorem EncodeLegal.faInit (a : PhysAddr) : EncodeLegal.Statement (.faInit a) :=
  encodeLegal_of_opcode _ (by simp [assignedOpcodes, Instr.opcode]) rfl

theorem EncodeLegal.faAlloc : EncodeLegal.Statement (.faAlloc) :=
  encodeLegal_of_opcode _ (by simp [assignedOpcodes, Instr.opcode]) rfl

theorem EncodeLegal.faFree (a : PhysAddr) : EncodeLegal.Statement (.faFree a) :=
  encodeLegal_of_opcode _ (by simp [assignedOpcodes, Instr.opcode]) rfl

theorem EncodeLegal.ptCreate : EncodeLegal.Statement (.ptCreate) :=
  encodeLegal_of_opcode _ (by simp [assignedOpcodes, Instr.opcode]) rfl

theorem EncodeLegal.ptAttach (a : PhysAddr) : EncodeLegal.Statement (.ptAttach a) :=
  encodeLegal_of_opcode _ (by simp [assignedOpcodes, Instr.opcode]) rfl

theorem EncodeLegal.ptMap (a : VirtAddr) (b : PhysAddr) (c : FlagWord) : EncodeLegal.Statement (.ptMap a b c) :=
  encodeLegal_of_opcode _ (by simp [assignedOpcodes, Instr.opcode]) rfl

theorem EncodeLegal.ptUnmap (a : VirtAddr) : EncodeLegal.Statement (.ptUnmap a) :=
  encodeLegal_of_opcode _ (by simp [assignedOpcodes, Instr.opcode]) rfl

theorem EncodeLegal.ptGetL1 (a : VirtAddr) : EncodeLegal.Statement (.ptGetL1 a) :=
  encodeLegal_of_opcode _ (by simp [assignedOpcodes, Instr.opcode]) rfl

theorem EncodeLegal.ptRetrieve (a : VirtAddr) : EncodeLegal.Statement (.ptRetrieve a) :=
  encodeLegal_of_opcode _ (by simp [assignedOpcodes, Instr.opcode]) rfl

theorem EncodeLegal.ptMapRegion (a : VirtAddr) (b : PhysAddr) (c : Word) (d : FlagWord) : EncodeLegal.Statement (.ptMapRegion a b c d) :=
  encodeLegal_of_opcode _ (by simp [assignedOpcodes, Instr.opcode]) rfl

theorem EncodeLegal.ptUnmapRegion (a : VirtAddr) (b : Word) : EncodeLegal.Statement (.ptUnmapRegion a b) :=
  encodeLegal_of_opcode _ (by simp [assignedOpcodes, Instr.opcode]) rfl

theorem EncodeLegal.ptEnable : EncodeLegal.Statement (.ptEnable) :=
  encodeLegal_of_opcode _ (by simp [assignedOpcodes, Instr.opcode]) rfl

end Sys2Proof.Laws
end

