-- ==== Sys2Proof/Laws/Walker.lean ====
section
/-! SUPPORT. One lemma per procedure of the walker: what it yields, what state it leaves, and which properties of the
state a whole walk keeps. -/

namespace Sys2Proof.Machine

/-! ### The root -/

theorem requireRoot_valid {s : State} (h : s.ptValid = true) : requireRoot s = .done () s := by simp [requireRoot, h]

theorem requireRoot_invalid {s : State} (h : s.ptValid = false) : requireRoot s = .raised .noroot s := by
  simp [requireRoot, h]

/-! ### The read-only walk -/

/-- A read-only walk reaches the path's table and changes nothing, or an entry lies beyond memory. -/
theorem walk_cases (v : VirtAddr) (ls : List Level) (t : PhysAddr) (s : State) :
    walk v ls t s = .done (pathTable s.mem v ls t) s ∨ walk v ls t s = .raised .bus s := by
  induction ls generalizing t with
  | nil => exact .inl rfl
  | cons l ls ih =>
    unfold walk pathTable
    by_cases h : s.inMemory (slot t (index v l)) 8 = true
    · rw [memRead_inMemory h]
      exact ih _
    · exact .inr (by simp [memRead, h])

/-- `FindL1` yields the level-1 slot of the path and changes nothing, or a slot lies beyond memory (R77). -/
theorem findL1_cases (v : VirtAddr) (s : State) :
    findL1 v s = .done (s.pathSlot v .l1) s ∨ findL1 v s = .raised .bus s := by
  unfold findL1
  rcases walk_cases v interiorLevels s.ptRoot s with h | h
  · exact .inl (by rw [h]; rfl)
  · exact .inr (by rw [h]; rfl)

/-- `FindL1` where the path lies in memory. -/
theorem findL1_inMemory {v : VirtAddr} {s : State} (h : s.pathInMemory v = true) :
    findL1 v s = .done (s.pathSlot v .l1) s := by
  simp only [State.pathInMemory, Bool.and_eq_true] at h
  obtain ⟨⟨⟨⟨-, h4⟩, h3⟩, h2⟩, -⟩ := h
  simp only [State.pathSlot, State.pathTableAt, Level.above, pathTable] at h4 h3 h2
  simp [findL1, interiorLevels, walk, memRead, h4, h3, h2, State.pathSlot, State.pathTableAt, Level.above, pathTable]

theorem unmapOne_inMemory {v : VirtAddr} {s : State} (h : s.pathInMemory v = true) :
    unmapOne v s = .done () (s.withMem (s.mem.writeWord (s.pathSlot v .l1) 0)) := by
  have h1 : s.inMemory (s.pathSlot v .l1) 8 = true := by
    simp only [State.pathInMemory, Bool.and_eq_true] at h; exact h.2
  rw [unmapOne, findL1_inMemory h]
  exact memWrite_inMemory 0 h1

/-- A property of the state that writing memory keeps survives an unmap. -/
theorem unmapOne_leaves {R : State → Prop} (hm : ∀ s m, R s → R (s.withMem m)) (v : VirtAddr) {s : State} (h : R s) :
    (unmapOne v s).Leaves R := by
  unfold unmapOne
  rcases findL1_cases v s with hf | hf <;> rw [hf]
  · unfold memWrite
    simp only [Eff.bind_done]
    split
    · exact hm _ _ h
    · exact h
  · exact h

theorem unmapPages_leaves {R : State → Prop} (hm : ∀ s m, R s → R (s.withMem m)) (v : VirtAddr) (n k : Nat)
    {s : State} (h : R s) : (unmapPages v n k s).Leaves R := by
  induction n generalizing k s with
  | zero => exact h
  | succ n ih => exact Eff.leaves_bind (unmapOne_leaves hm _ h) fun _ _ _ h' => ih _ h'

/-- `raise Fatal` after a write of memory, in the terms of the claims. -/
theorem State.raiseFatal_withMem (s : State) (m : Memory) (c : FatalCause) :
    (s.withMem m).raiseFatal c = s.stoppedFatal c.code m := rfl

theorem State.raiseFatal_eq (s : State) (c : FatalCause) : s.raiseFatal c = s.stoppedFatal c.code s.mem := rfl

/-- A read-only walk that meets a slot beyond memory at an interior level stops there, with nothing changed (R22). -/
theorem findL1_beyond {v : VirtAddr} {s : State} {l : Level} (hl : l ≠ .l1)
    (ha : ∀ l' ∈ l.above, s.inMemory (s.pathSlot v l') 8 = true) (hm : s.inMemory (s.pathSlot v l) 8 = false) :
    findL1 v s = .raised .bus s := by
  cases l with
  | l1 => exact absurd rfl hl
  | _ =>
    simp only [Level.above, List.mem_cons, List.not_mem_nil, or_false, forall_eq_or_imp, forall_eq, false_implies,
      implies_true, State.pathSlot, State.pathTableAt, pathTable] at ha hm
    simp [findL1, interiorLevels, walk, memRead, ha, hm]

/-- `FindL1` needs the three interior slots in memory and no more. -/
theorem findL1_interior {v : VirtAddr} {s : State}
    (ha : ∀ l' ∈ Level.l1.above, s.inMemory (s.pathSlot v l') 8 = true) : findL1 v s = .done (s.pathSlot v .l1) s := by
  simp only [Level.above, List.mem_cons, List.not_mem_nil, or_false, forall_eq_or_imp, forall_eq, State.pathSlot,
    State.pathTableAt, pathTable] at ha
  simp [findL1, interiorLevels, walk, memRead, ha, State.pathSlot, State.pathTableAt, Level.above, pathTable]

/-! ### The creating descent -/

theorem memWrite_leaves {R : State → Prop} (hm : ∀ s m, R s → R (s.withMem m)) (a : PhysAddr) (w : Word) {s : State}
    (h : R s) : (memWrite a w s).Leaves R := by
  unfold memWrite; split
  · exact hm _ _ h
  · exact h

theorem zeroFrame_leaves {R : State → Prop} (hm : ∀ s m, R s → R (s.withMem m)) (f : PhysAddr) {s : State}
    (h : R s) : (zeroFrame f s).Leaves R := by
  unfold zeroFrame; split
  · exact hm _ _ h
  · exact h

theorem memRead_leaves {R : State → Prop} (a : PhysAddr) {s : State} (h : R s) : (memRead a s).Leaves R := by
  unfold memRead; split <;> exact h

/-- A property of the state that `Alloc()` and writing memory keep survives one level of the descent. -/
theorem descendLevel_leaves {R : State → Prop} (hm : ∀ s m, R s → R (s.withMem m))
    (ha : ∀ s, R s → (alloc s).Leaves R) (v : VirtAddr) (l : Level) (t : PhysAddr) {s : State} (h : R s) :
    (descendLevel v l t s).Leaves R := by
  refine Eff.leaves_bind (memRead_leaves _ h) fun e s _ h => Eff.leaves_bind ?_ fun _ _ _ h => h
  split
  · refine Eff.leaves_bind (ha _ h) fun n s _ h => ?_
    cases n with
    | none => exact h
    | some n =>
      exact Eff.leaves_bind (zeroFrame_leaves hm _ h) fun _ _ _ h =>
        Eff.leaves_bind (memWrite_leaves hm _ _ h) fun _ _ _ h => h
  · exact Eff.leaves_bind (memWrite_leaves hm _ _ h) fun _ _ _ h => h

theorem descend_leaves {R : State → Prop} (hm : ∀ s m, R s → R (s.withMem m))
    (ha : ∀ s, R s → (alloc s).Leaves R) (v : VirtAddr) (ls : List Level) (t : PhysAddr) {s : State} (h : R s) :
    (descend v ls t s).Leaves R := by
  induction ls generalizing t s with
  | nil => exact h
  | cons l ls ih =>
    refine Eff.leaves_bind (descendLevel_leaves hm ha v l t h) fun t s _ h => ?_
    cases t with
    | none => exact h
    | some t => exact ih t h

/-- A property of the state that `Alloc()` and writing memory keep survives `MapOne`. -/
theorem mapOne_leaves {R : State → Prop} (hm : ∀ s m, R s → R (s.withMem m))
    (ha : ∀ s, R s → (alloc s).Leaves R) (v : VirtAddr) (p : PhysAddr) (f : FlagWord) {s : State} (h : R s) :
    (mapOne v p f s).Leaves R := by
  refine Eff.leaves_bind (descend_leaves hm ha v _ _ h) fun t s _ h => ?_
  cases t with
  | none => exact h
  | some t => exact Eff.leaves_bind (memWrite_leaves hm _ _ h) fun _ _ _ h => h

theorem mapPages_leaves {R : State → Prop} (hm : ∀ s m, R s → R (s.withMem m))
    (ha : ∀ s, R s → (alloc s).Leaves R) (v : VirtAddr) (p : PhysAddr) (f : FlagWord) (n k : Nat) {s : State}
    (h : R s) : (mapPages v p f n k s).Leaves R := by
  induction n generalizing k s with
  | zero => exact h
  | succ n ih =>
    refine Eff.leaves_bind (mapOne_leaves hm ha _ _ _ h) fun st s _ h => ?_
    split
    · exact h
    · exact ih _ h

/-- One level of the descent at an entry in use: the entry is refreshed, and the table it points to is entered. -/
theorem descendLevel_reuse {v : VirtAddr} {l : Level} {t : PhysAddr} {s : State}
    (hm : s.inMemory (slot t (index v l)) 8 = true) (hu : isUnused (s.mem.readWord (slot t (index v l))) = false) :
    descendLevel v l t s = .done (some (physAddr (refreshTable (s.mem.readWord (slot t (index v l))))))
      (s.withMem (s.mem.writeWord (slot t (index v l)) (refreshTable (s.mem.readWord (slot t (index v l)))))) := by
  simp [descendLevel, memRead, hm, hu, reuseTable, memWrite]

/-- One level of the descent at an unused entry with a frame to hand: the frame is zeroed, then linked. -/
theorem descendLevel_grow {v : VirtAddr} {l : Level} {t n : PhysAddr} {s u : State}
    (hm : s.inMemory (slot t (index v l)) 8 = true) (hu : isUnused (s.mem.readWord (slot t (index v l))) = true)
    (ha : alloc s = .done (some n) u) (hp : u.params = s.params) (hn : s.inMemory n Config.frameSize = true) :
    descendLevel v l t s = .done (some (physAddr (newTableEntry n)))
      (u.withMem ((u.mem.zeroRange n.val.toNat Config.frameSize).writeWord (slot t (index v l))
        (newTableEntry n))) := by
  have hn' : u.inMemory n Config.frameSize = true := by rw [State.inMemory_congr hp]; exact hn
  have hm' : u.inMemory (slot t (index v l)) 8 = true := by rw [State.inMemory_congr hp]; exact hm
  simp [descendLevel, memRead, hm, hu, growTable, ha, zeroFrame, hn', memWrite, hm']

/-- One level of the descent at an unused entry with no frame left: nothing is undone (R91). -/
theorem descendLevel_exhausted {v : VirtAddr} {l : Level} {t : PhysAddr} {s u : State}
    (hm : s.inMemory (slot t (index v l)) 8 = true) (hu : isUnused (s.mem.readWord (slot t (index v l))) = true)
    (ha : alloc s = .done none u) : descendLevel v l t s = .done none u := by
  simp [descendLevel, memRead, hm, hu, growTable, ha]

end Sys2Proof.Machine
end

