-- ==== Sys2Proof/Tests/Slice0.lean ====
section
/-! SUPPORT. Tests: ill-formed packets refused, one packet written out from the opcode map for each command, and the
vectors of spec/95_test_vectors.md, each theorem naming its row. Expected values are the spec's own. -/

namespace Sys2Proof.Tests

open Sys2Proof.Machine

/-! ### Helpers -/

/-- The state a command leaves; where it stops, the state it met. -/
def after (i : Instr) (s : State) : State :=
  match exec i s with
  | .next t => t
  | _ => s

/-- The status and results a command answers with, if it answers. -/
def answer (i : Instr) (s : State) : Option Response :=
  match exec i s with
  | .next t => t.response
  | _ => none

/-- The state after one step; where the step stops, the state it met. -/
def stepped (s : State) : State :=
  match step s with
  | .next t => t
  | _ => s

/-- The command answers a next state. -/
def completes (i : Instr) (s : State) : Bool :=
  match exec i s with
  | .next _ => true
  | _ => false

/-- The step answers a next state. -/
def moves (s : State) : Bool :=
  match step s with
  | .next _ => true
  | _ => false

theorem exec_after {i : Instr} {s : State} (h : completes i s = true) : exec i s = .next (after i s) := by
  unfold completes at h; unfold after; split at h <;> simp_all

theorem step_stepped {s : State} (h : moves s = true) : step s = .next (stepped s) := by
  unfold moves at h; unfold stepped; split at h <;> simp_all

/-- `FA_INIT 0x100000` from reset (vector F1). -/
def ready : State := { State.reset with heapBase := ⟨0x100000⟩, heapTop := ⟨0x100000⟩, inited := true }

/-- S0 of section 2.4: a fresh root at 0x100000. -/
def rooted : State := { ready with heapTop := ⟨0x101000⟩, ptRoot := ⟨0x100000⟩, ptValid := true }

/-- S0 after vector W2: 0x10000 mapped to 0x200000 with flags 3. -/
def mapped : State :=
  { rooted with
    heapTop := ⟨0x104000⟩
    mem := [(0x100000, 0x03), (0x100001, 0x10), (0x100002, 0x10), (0x101000, 0x03), (0x101001, 0x20), (0x101002, 0x10),
      (0x102000, 0x03), (0x102001, 0x30), (0x102002, 0x10), (0x103080, 0x03), (0x103082, 0x20)] }

/-- Reset and one 8-byte word of start memory. -/
def attachable (root : PhysAddr) (w : Word) : State := { State.reset with mem := Memory.writeWord [] root w }

/-! ### Ill-formed packets (R33; vectors X1 to X6) -/

theorem test_reserved_bit_is_illegal : Packet.wellFormed ⟨0x131, 0, 0, 0, 0⟩ = false := by decide
theorem test_reserved_bit_names_its_check : Packet.rsvdZero ⟨0x8000000000000031, 0, 0, 0, 0⟩ = false := by decide
theorem test_unassigned_opcode_is_illegal : Packet.wellFormed ⟨0x14, 0, 0, 0, 0⟩ = false := by decide
theorem test_unassigned_opcode_names_its_check : Packet.opcodeAssigned ⟨0x29, 0, 0, 0, 0⟩ = false := by decide
theorem test_X1_opcode_zero : decodePacket ⟨0, 0, 0, 0, 0⟩ = .rejected (.unassignedOpcode 0) := by decide
theorem test_X2_opcode_ff : decodePacket ⟨0xFF, 0, 0, 0, 0⟩ = .rejected (.unassignedOpcode 0xFF) := by decide
theorem test_X4_first_unassigned : decodePacket ⟨0x33, 0, 0, 0, 0⟩ = .rejected (.unassignedOpcode 0x33) ∧
    decodePacket ⟨0x49, 0, 0, 0, 0⟩ = .rejected (.unassignedOpcode 0x49) := by decide
theorem test_X5_reserved_bit_eight : decodePacket ⟨0x131, 0, 0, 0, 0⟩ = .rejected .reservedBits := by decide
theorem test_X6_top_reserved_bit : decodePacket ⟨0x8000000000000031, 0, 0, 0, 0⟩ = .rejected .reservedBits := by decide
theorem test_short_packet_is_rejected : decodeBytes (List.replicate 39 0) = .rejected .notFortyBytes := by decide

/-! ### Operands outside the host's domain (R121): one refused for each check of `operandsInDomain` -/

theorem test_P11_level : (Instr.vaIndex ⟨0⟩ 0x100000001).operandsInDomain = false := by decide
theorem test_P8_new_page : (Instr.pteNewPage ⟨0x200ABC⟩ 3).operandsInDomain = false := by decide
theorem test_P8_new_table : (Instr.pteNewTable ⟨0x10000000000000⟩).operandsInDomain = false := by decide
theorem test_P8_set_addr : (Instr.pteSetAddr 3 ⟨0x400FFF⟩).operandsInDomain = false := by decide
theorem test_P3_init : (Instr.faInit ⟨0x100800⟩).operandsInDomain = false := by decide
theorem test_P6_free : (Instr.faFree ⟨0⟩).operandsInDomain = false ∧
    (Instr.faFree ⟨0x1008⟩).operandsInDomain = false := by decide
theorem test_P12_attach : (Instr.ptAttach ⟨0x500001⟩).operandsInDomain = false := by decide
theorem test_P9_map : (Instr.ptMap ⟨0x10ABC⟩ ⟨0x200000⟩ 3).operandsInDomain = false ∧
    (Instr.ptMap ⟨0x10000⟩ ⟨0x200001⟩ 3).operandsInDomain = false := by decide
theorem test_P9_lookups : (Instr.ptUnmap ⟨1⟩).operandsInDomain = false ∧ (Instr.ptGetL1 ⟨1⟩).operandsInDomain = false ∧
    (Instr.ptRetrieve ⟨1⟩).operandsInDomain = false := by decide
theorem test_P9_regions : (Instr.ptMapRegion ⟨0⟩ ⟨0⟩ 0x1001 3).operandsInDomain = false ∧
    (Instr.ptUnmapRegion ⟨0⟩ 0x1001).operandsInDomain = false := by decide

/-! ### Decoding: one packet of each command, word 0 written from the map of R32 -/

theorem test_decode_VA_INDEX : decodePacket ⟨0x0000000000000010, 0x10000, 4, 0, 0⟩ =
    .command (.vaIndex ⟨0x10000⟩ 4) := by decide
theorem test_decode_VA_OFFSET : decodePacket ⟨0x0000000000000011, 0x400000, 0, 0, 0⟩ =
    .command (.vaOffset ⟨0x400000⟩) := by decide
theorem test_decode_ADDR_ADD : decodePacket ⟨0x0000000000000012, 0x100000, 0x1000, 0, 0⟩ =
    .command (.addrAdd 0x100000 0x1000) := by decide
theorem test_decode_ADDR_SUB : decodePacket ⟨0x0000000000000013, 0x101000, 0x1000, 0, 0⟩ =
    .command (.addrSub 0x101000 0x1000) := by decide
theorem test_decode_PTE_NEW_PAGE : decodePacket ⟨0x0000000000000020, 0x200000, 3, 0, 0⟩ =
    .command (.pteNewPage ⟨0x200000⟩ 3) := by decide
theorem test_decode_PTE_NEW_TABLE : decodePacket ⟨0x0000000000000021, 0x101000, 0, 0, 0⟩ =
    .command (.pteNewTable ⟨0x101000⟩) := by decide
theorem test_decode_PTE_SET_FLAGS : decodePacket ⟨0x0000000000000022, 0x300003, 5, 0, 0⟩ =
    .command (.pteSetFlags 0x300003 5) := by decide
theorem test_decode_PTE_SET_ADDR : decodePacket ⟨0x0000000000000023, 0x300003, 0x400000, 0, 0⟩ =
    .command (.pteSetAddr 0x300003 ⟨0x400000⟩) := by decide
theorem test_decode_PTE_SET_UNUSED : decodePacket ⟨0x0000000000000024, 0x200003, 0, 0, 0⟩ =
    .command (.pteSetUnused 0x200003) := by decide
theorem test_decode_PTE_IS_UNUSED : decodePacket ⟨0x0000000000000025, 2, 0, 0, 0⟩ =
    .command (.pteIsUnused 2) := by decide
theorem test_decode_PTE_IS_PRESENT : decodePacket ⟨0x0000000000000026, 0x200002, 0, 0, 0⟩ =
    .command (.pteIsPresent 0x200002) := by decide
theorem test_decode_PTE_PHYS_ADDR : decodePacket ⟨0x0000000000000027, 0x8000000000300005, 0, 0, 0⟩ =
    .command (.ptePhysAddr 0x8000000000300005) := by decide
theorem test_decode_PTE_FLAGS : decodePacket ⟨0x0000000000000028, 0x8000000000300005, 0, 0, 0⟩ =
    .command (.pteFlags 0x8000000000300005) := by decide
/-- P1 step 1. -/
theorem test_decode_FA_INIT : decodePacket ⟨0x0000000000000030, 0x0000000000100000, 0, 0, 0⟩ =
    .command (.faInit ⟨0x100000⟩) := by decide
/-- X7: the operand words it does not read are ignored. -/
theorem test_decode_FA_ALLOC : decodePacket ⟨0x0000000000000031, 0xDEADBEEFDEADBEEF, 1, 2, 3⟩ =
    .command .faAlloc := by decide
/-- P1 step 7. -/
theorem test_decode_FA_FREE : decodePacket ⟨0x0000000000000032, 0x0000000000101000, 0, 0, 0⟩ =
    .command (.faFree ⟨0x101000⟩) := by decide
/-- P2 step 2. -/
theorem test_decode_PT_CREATE : decodePacket ⟨0x0000000000000040, 0, 0, 0, 0⟩ = .command .ptCreate := by decide
theorem test_decode_PT_ATTACH : decodePacket ⟨0x0000000000000041, 0x500000, 0, 0, 0⟩ =
    .command (.ptAttach ⟨0x500000⟩) := by decide
/-- P2 step 5. -/
theorem test_decode_PT_MAP :
    decodePacket ⟨0x0000000000000042, 0x0000000000010000, 0x0000000000300000, 0x8000000000000005, 0⟩ =
    .command (.ptMap ⟨0x10000⟩ ⟨0x300000⟩ 0x8000000000000005) := by decide
/-- P2 step 9. -/
theorem test_decode_PT_UNMAP : decodePacket ⟨0x0000000000000043, 0x0000000000010000, 0, 0, 0⟩ =
    .command (.ptUnmap ⟨0x10000⟩) := by decide
/-- P2 step 6. -/
theorem test_decode_PT_GET_L1 : decodePacket ⟨0x0000000000000044, 0x0000000000010000, 0, 0, 0⟩ =
    .command (.ptGetL1 ⟨0x10000⟩) := by decide
/-- P2 step 7. -/
theorem test_decode_PT_RETRIEVE : decodePacket ⟨0x0000000000000045, 0x0000000000010abc, 0, 0, 0⟩ =
    .command (.ptRetrieve ⟨0x10ABC⟩) := by decide
/-- P3 step 3. -/
theorem test_decode_PT_MAP_REGION : decodePacket ⟨0x0000000000000046, 0x00000000001fe000, 0x0000000000800000,
    0x0000000000003000, 0x0000000000000003⟩ = .command (.ptMapRegion ⟨0x1FE000⟩ ⟨0x800000⟩ 0x3000 3) := by decide
theorem test_decode_PT_UNMAP_REGION : decodePacket ⟨0x0000000000000047, 0x400000, 0x2000, 0, 0⟩ =
    .command (.ptUnmapRegion ⟨0x400000⟩ 0x2000) := by decide
/-- P2 step 8. -/
theorem test_decode_PT_ENABLE : decodePacket ⟨0x0000000000000048, 0, 0, 0, 0⟩ = .command .ptEnable := by decide

/-- R30 and section 95's note: word 0 of `FA_INIT` is the bytes 30 00 00 00 00 00 00 00. -/
theorem test_packet_bytes_are_little_endian :
    encodeBytes (.faInit ⟨0x100000⟩) = [0x30, 0, 0, 0, 0, 0, 0, 0, 0, 0, 0x10] ++ List.replicate 29 0 := by decide
/-- The host's numbering over all 320 bits: P3 step 3. -/
theorem test_table_word_five_words : decodeTableWord 320 (0x46 + 0x1FE000 * 2 ^ 64 + 0x800000 * 2 ^ 128 +
    0x3000 * 2 ^ 192 + 3 * 2 ^ 256) = some (.ptMapRegion ⟨0x1FE000⟩ ⟨0x800000⟩ 0x3000 3) := by decide
/-- R35: a written command. -/
theorem test_written_form : (Instr.ptMap ⟨0x10000⟩ ⟨0x200000⟩ 3).written = "PT_MAP 0x10000, 0x200000, 0x3" := by decide
/-- The host's numbering: operand words follow word 0 upward. -/
theorem test_table_word : decodeTableWord 128 (0x32 + 0x101000 * 2 ^ 64) = some (.faFree ⟨0x101000⟩) := by decide

/-! ### Section 2.1, address types -/

theorem test_A3_index_4 : answer (.vaIndex ⟨0xFFFF800012345678⟩ 4) .reset = some ⟨.ok, 0x100, 0⟩ := by decide
theorem test_A6_index_1 : answer (.vaIndex ⟨0xFFFF800012345678⟩ 1) .reset = some ⟨.ok, 0x145, 0⟩ := by decide
theorem test_A15_level_not_truncated :
    exec (.vaIndex ⟨0x10000⟩ 0x100000001) .reset = .next (State.reset.respond .ok Config.indexSentinel 0) := rfl
theorem test_A11_offset : answer (.vaOffset ⟨0x0000008040201123⟩) .reset = some ⟨.ok, 0x123, 0⟩ := by decide
theorem test_A19_add_wraps : answer (.addrAdd 0xFFFFFFFFFFFFF000 0x1000) .reset = some ⟨.ok, 0, 0⟩ := by decide
theorem test_A20_sub : answer (.addrSub 0x101000 0x1000) .reset = some ⟨.ok, 0x100000, 0⟩ := by decide
theorem test_A21_sub_wraps : answer (.addrSub 0 1) .reset = some ⟨.ok, 0xFFFFFFFFFFFFFFFF, 0⟩ := by decide

/-! ### Section 2.2, the entry codec -/

theorem test_E3_unaligned_truncated : answer (.pteNewPage ⟨0x200ABC⟩ 3) .reset = some ⟨.ok, 0x200003, 0⟩ := by decide
theorem test_E5_flags_masked :
    answer (.pteNewPage ⟨0⟩ 0xFFFFFFFFFFFFFFFF) .reset = some ⟨.ok, 0xFFF0000000000FFF, 0⟩ := by decide
theorem test_E10_table_of_zero : answer (.pteNewTable ⟨0⟩) .reset = some ⟨.ok, 3, 0⟩ := by decide
theorem test_E11_flags_not_merged :
    answer (.pteSetFlags 0x8000000000300005 3) .reset = some ⟨.ok, 0x300003, 0⟩ := by decide
theorem test_E14_address_side_dropped :
    answer (.pteSetFlags 0x300003 0x400000) .reset = some ⟨.ok, 0x300000, 0⟩ := by decide
theorem test_E16_low_bits_dropped :
    answer (.pteSetAddr 0x300003 ⟨0x400FFF⟩) .reset = some ⟨.ok, 0x400003, 0⟩ := by decide
theorem test_E17_set_unused : answer (.pteSetUnused 0x200003) .reset = some ⟨.ok, 0, 0⟩ := by decide
theorem test_E18_unused : answer (.pteIsUnused 0) .reset = some ⟨.ok, 1, 0⟩ := by decide
theorem test_E19_not_unused : answer (.pteIsUnused 2) .reset = some ⟨.ok, 0, 0⟩ := by decide
theorem test_E22_present : answer (.pteIsPresent 0x200003) .reset = some ⟨.ok, 1, 0⟩ := by decide
theorem test_E23_not_present : answer (.pteIsPresent 0x200002) .reset = some ⟨.ok, 0, 0⟩ := by decide
theorem test_E27_flags_never_leak :
    answer (.ptePhysAddr 0xFFFFFFFFFFFFFFFF) .reset = some ⟨.ok, 0x000FFFFFFFFFF000, 0⟩ := by decide
theorem test_E29_flags : answer (.pteFlags 0xFFFFFFFFFFFFFFFF) .reset = some ⟨.ok, 0xFFF0000000000FFF, 0⟩ := by decide

/-- R48: `NAMED_FLAGS` is the ten named flags together, all on the flag side. -/
theorem test_named_flags : ([Flag.present, .writable, .user, .writeThrough, .noCache, .accessed, .dirty, .hugePage, .global,
    .noExecute].foldl (fun w f => w ||| f.value) 0) = namedFlags ∧ namedFlags &&& flagMask = namedFlags := by decide

/-! ### Section 2.3, the frame allocator -/

theorem test_F1_init : (after (.faInit ⟨0x100000⟩) .reset) = { ready with response := some ⟨.ok, 0, 0⟩ } := by decide
theorem test_F4_second_init : answer (.faInit ⟨0x200000⟩) ready = some ⟨.fatal, 1, 0⟩ ∧
    (after (.faInit ⟨0x200000⟩) ready).heapTop = ⟨0x100000⟩ := by decide
theorem test_F2_alloc_before_init : answer .faAlloc .reset = some ⟨.fatal, 1, 0⟩ ∧
    (after .faAlloc .reset).fatalCause = 1 := by decide
theorem test_F6_exhausted :
    answer .faAlloc { ready with heapTop := ⟨0x102000⟩, params := ⟨0x102000, 2 ^ 52⟩ } = some ⟨.none, 0, 0⟩ := by decide
/-- The double free of F8, the second one, at the state the first leaves. -/
theorem test_F8_double_free :
    (after (.faFree ⟨0x100000⟩) { ready with freeHead := ⟨0x100000⟩ }).mem.readWord ⟨0x100000⟩ = 0x100000 := by decide
theorem test_F9_free_across_the_end :
    answer (.faFree ⟨0x1FFFFC⟩) { ready with params := ⟨0x200000, 0x200000⟩ } = some ⟨.fatal, 3, 0⟩ := by decide
/-- F11: the free-list path does not zero. -/
theorem test_F11_pop_does_not_zero :
    Memory.read (after .faAlloc { ready with freeHead := ⟨0x100000⟩, mem := [(0x100008, 0xAA)] }).mem 0x100008 = 0xAA := by
  decide

/-! ### Section 2.4, the walker -/

theorem test_W1_create : after .ptCreate ready = { rooted with response := some ⟨.ok, 0x100000, 0⟩ } := by decide
theorem test_W2_map_grows :
    after (.ptMap ⟨0x10000⟩ ⟨0x200000⟩ 3) rooted = { mapped with response := some ⟨.ok, 0, 0⟩ } := by decide
theorem test_W16_exhausted : answer (.ptMap ⟨0x10000⟩ ⟨0x200000⟩ 3)
    { rooted with params := ⟨0x102000, 2 ^ 52⟩ } = some ⟨.none, 0, 0⟩ := by decide
theorem test_W14_no_root : answer (.ptMap ⟨0x10000⟩ ⟨0x200000⟩ 3) ready = some ⟨.fatal, 2, 0⟩ := by decide
theorem test_W3_offset_not_added : answer (.ptRetrieve ⟨0x10ABC⟩) mapped = some ⟨.ok, 0x200000, 0⟩ := by decide
theorem test_W19_walk_through_zero : answer (.ptRetrieve ⟨0x10000⟩)
    { rooted with mem := [(0, 0x11), (0x80, 0x77), (0x81, 0x70)] } = some ⟨.ok, 0x7000, 0⟩ := by decide
theorem test_W3_get_l1 : answer (.ptGetL1 ⟨0x10000⟩) mapped = some ⟨.ok, 0x200003, 0x103080⟩ := by decide
theorem test_W6_unmap : (after (.ptUnmap ⟨0x10000⟩) mapped).mem.readWord ⟨0x103080⟩ = 0 := by decide
theorem test_W6_tables_stay :
    (after (.ptUnmap ⟨0x10000⟩) mapped).mem.readWord ⟨0x102000⟩ = 0x103003 := by decide
theorem test_W10_size_rounds_up :
    answer (.ptMapRegion ⟨0x400000⟩ ⟨0x400000⟩ 0x1001 0x103) rooted = some ⟨.ok, 2, 0⟩ := by decide
theorem test_W9_region : ((after (.ptMapRegion ⟨0x400000⟩ ⟨0x800000⟩ 0x3000 3) rooted).mem.readWord ⟨0x102010⟩ = 0x103003) ∧
    (after (.ptMapRegion ⟨0x400000⟩ ⟨0x800000⟩ 0x3000 3) rooted).mem.readWord ⟨0x103010⟩ = 0x802003 := by decide
theorem test_unmap_region : answer (.ptUnmapRegion ⟨0x10000⟩ 0x1001) mapped = some ⟨.ok, 2, 0⟩ ∧
    (after (.ptUnmapRegion ⟨0x10000⟩ 0x1001) mapped).mem.readWord ⟨0x103080⟩ = 0 := by decide
theorem test_W13_enable : (after .ptEnable rooted).activeRoot = ⟨0x100000⟩ := by decide
theorem test_W15_enable_without_root : answer .ptEnable ready = some ⟨.fatal, 2, 0⟩ := by decide
/-- W17: the level-4 entry is refreshed, and stays written when `Alloc()` raises `ORDER`. -/
theorem test_W17_map_before_init :
    answer (.ptMap ⟨0x10000⟩ ⟨0x200000⟩ 3) (after (.ptAttach ⟨0x500000⟩) (attachable ⟨0x500000⟩ 0x501001)) =
      some ⟨.fatal, 1, 0⟩ ∧
    (after (.ptMap ⟨0x10000⟩ ⟨0x200000⟩ 3)
      (after (.ptAttach ⟨0x500000⟩) (attachable ⟨0x500000⟩ 0x501001))).mem.readWord ⟨0x500000⟩ = 0x501003 := by decide
/-- W18: an entry with an address and no flags is reused as a table, and refreshed. -/
theorem test_W18_refresh : (after (.ptMap ⟨0x10000⟩ ⟨0x200000⟩ 7)
    { attachable ⟨0x100000⟩ 0x501000 with
      inited := true, heapBase := ⟨0x600000⟩, heapTop := ⟨0x600000⟩, ptRoot := ⟨0x100000⟩, ptValid := true }).mem.readWord
    ⟨0x100000⟩ = 0x501003 := by decide

/-! ### Steps: the fatal state before legality, reset, the host's queue -/

/-- X8 and X9: in the fatal state an illegal packet and a pure command answer alike. -/
theorem test_X8_fatal_before_legality :
    (stepped { State.reset with fatal := true, fatalCause := 1, inbox := [.command ⟨0, 0, 0, 0, 0⟩] }).response =
      some ⟨.fatal, 1, 0⟩ := by decide
theorem test_X9_pure_command_refused : (stepped { State.reset with
    fatal := true, fatalCause := 1, inbox := [.command ⟨0x21, 0x101000, 0, 0, 0⟩] }).response = some ⟨.fatal, 1, 0⟩ := by
  decide
theorem test_X5_illegal_answer : (stepped { State.reset with inbox := [.command ⟨0x131, 0, 0, 0, 0⟩] }).response =
    some ⟨.illegal, 0, 0⟩ := by decide
theorem test_fetch_word_runs_next : (stepped (State.reset.withFetchWord 8 0x40)).response = some ⟨.fatal, 1, 0⟩ := by decide
theorem test_idle_waits : stepped mapped = mapped := by decide
theorem test_lock_held_hangs : exec .faAlloc { ready with lock := true } = .fault .lockHeld := by rfl

/-! ### Witnesses: for every obligation with hypotheses, a state and operands that meet them, at the edge of each clause -/

/-- Two donated frames on the free list: 0x300000, then 0x200000. -/
def listed : State := { ready with freeHead := ⟨0x300000⟩, mem := [(0x300002, 0x20)] }

theorem listed_freeList : FreeList listed [⟨0x300000⟩, ⟨0x200000⟩] :=
  ⟨rfl, rfl, rfl, by decide, by decide, by decide, by decide, by decide, rfl⟩

/-- S0 with the two frames of `listed`, both stale beyond their next-pointer. -/
def rootedListed : State :=
  { rooted with
    freeHead := ⟨0x300000⟩, mem := [(0x200800, 0xAA), (0x300002, 0x20), (0x300100, 0xAA)], params := ⟨0x102000, 2 ^ 52⟩ }

/-- A state with the two OPEN parameters given. -/
def sized (s : State) (heapLimit memSize : Nat) : State := { s with params := ⟨heapLimit, memSize⟩ }

/-- Before `FA_INIT`: a root at 0x500000 whose entry 0 links the table at 0x501000 (vector W17), with entry 0 there as
given. -/
def twoTables (e : Word) : State :=
  { State.reset with
    ptRoot := ⟨0x500000⟩, ptValid := true
    mem := Memory.writeWord (Memory.writeWord [] ⟨0x500000⟩ 0x501003) ⟨0x501000⟩ e }

/-- A page of `mapped` and its neighbour. -/
def page : VirtAddr := ⟨0x10000⟩
def nextPage : VirtAddr := ⟨0x11000⟩

theorem witness_DecodedCommandHasThePacketsWords :
    decodePacket ⟨0x31, 0xDEADBEEFDEADBEEF, 1, 2, 3⟩ = .command .faAlloc ∧
    decodePacket ⟨0x46, 1, 2, 3, 4⟩ = .command (.ptMapRegion ⟨1⟩ ⟨2⟩ 3 4) := by decide

theorem witness_PacketIsIllegalExactlyOutsideTheOpcodeMap :
    ∃ (s : State) (p : Packet) (rest : List HostAction), s.inbox = .command p :: rest ∧ s.fatal = false ∧
      ∃ e, decodePacket p = .rejected e :=
  ⟨{ State.reset with inbox := [.command ⟨0x49, 0, 0, 0, 0⟩] }, ⟨0x49, 0, 0, 0, 0⟩, [], rfl, rfl,
    .unassignedOpcode 0x49, by decide⟩

theorem witness_StepRunsTheDecodedCommand :
    (∃ (s : State) (p : Packet) (rest : List HostAction) (i : Instr),
      s.inbox = .command p :: rest ∧ s.fatal = false ∧ decodePacket p = .command i) ∧ ∃ s : State, s.inbox = [] :=
  ⟨⟨{ State.reset with inbox := [.command ⟨0x48, 0, 0, 0, 0⟩, .reset] }, ⟨0x48, 0, 0, 0, 0⟩, [.reset], .ptEnable,
    rfl, rfl, by decide⟩, .reset, rfl⟩

/-- The fatal state with a legal packet, an illegal one, and a host write next. -/
def dead (act : HostAction) : State := { State.reset with fatal := true, fatalCause := 3, inbox := [act] }

theorem witness_FatalStateIsStickyUntilReset_packet : ∀ p ∈ [encode .faAlloc, ⟨0, 0, 0, 0, 0⟩],
    (dead (.command p)).fatal = true ∧ (dead (.command p)).inbox = .command p :: [] := by decide

theorem witness_FatalStateIsStickyUntilReset_write :
    (dead (.write ⟨0⟩ [1])).fatal = true ∧ step (dead (.write ⟨0⟩ [1])) = .next (stepped (dead (.write ⟨0⟩ [1]))) ∧
      ∀ rest, (dead (.write ⟨0⟩ [1])).inbox ≠ .reset :: rest :=
  ⟨rfl, step_stepped (by decide), fun _ h => by cases h⟩

theorem witness_ResetEventRestoresEveryField : (dead .reset).inbox = .reset :: [] := rfl

/-- The last byte written is the last byte of memory. -/
theorem witness_HostWriteSetsExactlyTheBytesWritten :
    ∃ (s : State) (a : PhysAddr) (bs : List Byte), s.inbox = .write a bs :: [] ∧
      a.val.toNat + bs.length ≤ s.params.memSize ∧ a.val.toNat + bs.length ≤ 2 ^ 64 :=
  ⟨{ sized .reset 0x100000 0x100000 with inbox := [.write ⟨0xFFFFE⟩ [1, 2]] }, ⟨0xFFFFE⟩, [1, 2], rfl, by decide, by decide⟩

/-- The last word of memory, and the first that crosses its end. -/
theorem witness_WordAccessIsLittleEndianAndBounded :
    (0xFFFF8 + 7 < (sized .reset 0x100000 0x100000).params.memSize ∧ (0xFFFF8 : Word).toNat + 7 < 2 ^ 64) ∧
    (sized .reset 0x100000 0x100000).params.memSize ≤ (0xFFFF9 : Word).toNat + 7 ∧
    2 ^ 64 ≤ (0xFFFFFFFFFFFFFFF9 : Word).toNat + 7 := by decide

/-- The last frame of memory, and the first that crosses its end. -/
theorem witness_ZeroFrameClearsExactlyOneFrame :
    ((0xFF000 : Word).toNat + 4095 < (sized .reset 0x100000 0x100000).params.memSize ∧
      (0xFF000 : Word).toNat + 4095 < 2 ^ 64) ∧
    (sized .reset 0x100000 0x100000).params.memSize ≤ (0xFF001 : Word).toNat + 4095 ∧
    2 ^ 64 ≤ (0xFFFFFFFFFFFFF001 : Word).toNat + 4095 := by decide

theorem witness_VirtualAddressCommandsReturnTheirField : ∀ l ∈ [(0 : Word), 5, 0x100000001],
    l ≠ 1 ∧ l ≠ 2 ∧ l ≠ 3 ∧ l ≠ 4 := by simp

theorem witness_IndicesAndOffsetTileTheLow48Bits :
    (∀ l, index ⟨0xFFFF800012345678⟩ l = index ⟨0x800012345678⟩ l) ∧
      offset ⟨0xFFFF800012345678⟩ = offset ⟨0x800012345678⟩ :=
  ⟨fun l => by cases l <;> decide, by decide⟩

theorem witness_TopBitsOfAVirtualAddressAreIgnored :
    (0xFFFF800012345678 : Word) &&& 0xFFFFFFFFFFFF = 0x800012345678 &&& 0xFFFFFFFFFFFF := by decide

theorem witness_PageOffsetPlaysNoPartInAWalk :
    (0x10ABC : Word) &&& 0xFFFFFFFFF000 = 0x10000 &&& 0xFFFFFFFFF000 ∧
    (0xFFF0000000200FFF : Word) &&& 0x000FFFFFFFFFF000 = 0x200000 &&& 0x000FFFFFFFFFF000 := by decide

theorem witness_EntryPartsRoundTrip : (0x000FFFFFFFFFF000 : Word) &&& ~~~(0x000FFFFFFFFFF000 : Word) = 0 ∧
    (0xFFF0000000000FFF : Word) &&& ~~~(0xFFF0000000000FFF : Word) = 0 := by decide

theorem witness_PureCommandsChangeOnlyTheResponse : isPure (.vaIndex ⟨0⟩ 0) = true ∧ isPure (.pteFlags 0) = true := by decide

theorem witness_FaInitRecordsBaseAndCursorOnce :
    (State.reset.inited = false ∧ State.reset.lock = false) ∧ ready.inited = true := by decide

/-! The six clauses of `FaAllocTakesTheFreeListFirst`. -/

theorem witness_FaAllocTakesTheFreeListFirst_order : State.reset.lock = false ∧ State.reset.inited = false := by decide
theorem witness_FaAllocTakesTheFreeListFirst_pop : ∃ s : State, s.lock = false ∧ s.inited = true ∧ s.freeHead ≠ ⟨0⟩ ∧
    s.inMemory s.freeHead 8 = true := ⟨sized { ready with freeHead := ⟨0x1FFFF8⟩ } 0 0x200000, by decide⟩
theorem witness_FaAllocTakesTheFreeListFirst_pop_bus : ∃ s : State, s.lock = false ∧ s.inited = true ∧
    s.freeHead ≠ ⟨0⟩ ∧ s.inMemory s.freeHead 8 = false :=
  ⟨sized { ready with freeHead := ⟨0x1FFFF9⟩ } 0 0x200000, by decide⟩
theorem witness_FaAllocTakesTheFreeListFirst_none : ∃ s : State, s.lock = false ∧ s.inited = true ∧
    s.freeHead = ⟨0⟩ ∧ s.params.heapLimit < s.heapTop.val.toNat + 4096 :=
  ⟨sized ready 0x100FFF (2 ^ 52), by decide⟩
theorem witness_FaAllocTakesTheFreeListFirst_bump : ∃ s : State, s.lock = false ∧ s.inited = true ∧
    s.freeHead = ⟨0⟩ ∧ s.heapTop.val.toNat + 4096 ≤ s.params.heapLimit ∧ s.inMemory s.heapTop 4096 = true :=
  ⟨sized ready 0x101000 0x101000, by decide⟩
theorem witness_FaAllocTakesTheFreeListFirst_bump_bus : ∃ s : State, s.lock = false ∧ s.inited = true ∧
    s.freeHead = ⟨0⟩ ∧ s.heapTop.val.toNat + 4096 ≤ s.params.heapLimit ∧ s.inMemory s.heapTop 4096 = false :=
  ⟨sized ready 0x101000 0x100FFF, by decide⟩

theorem witness_ExhaustionIsExactAndNotSticky : ∃ (s t : State) (f : PhysAddr) (u : State), s.inited = true ∧
    s.lock = false ∧ exec .faAlloc s = .next t ∧ t.lastStatus = some .none ∧ f ≠ ⟨0⟩ ∧ exec (.faFree f) t = .next u ∧
    u.lastStatus = some .ok :=
  ⟨sized ready 0x100000 (2 ^ 52), _, ⟨0x100000⟩, _, rfl, rfl, exec_after (by decide), by decide, by decide,
    exec_after (by decide), by decide⟩

theorem witness_FaFreePushesAnyFrameInMemory : (State.reset.lock = false ∧ State.reset.inited = false) ∧
    ((sized ready 0 0x200000).lock = false ∧ (sized ready 0 0x200000).inited = true ∧
      (sized ready 0 0x200000).inMemory ⟨0x1FFFF8⟩ 8 = true ∧
      (sized ready 0 0x200000).inMemory ⟨0x1FFFF9⟩ 8 = false) := by decide

theorem witness_FreedFrameIsAllocatedNext : listed.inited = true ∧ listed.lock = false ∧
    (⟨0x300008⟩ : PhysAddr) ≠ ⟨0⟩ ∧ listed.inMemory ⟨0x300008⟩ 8 = true ∧ FreeList listed [⟨0x300000⟩, ⟨0x200000⟩] ∧
    ∀ g ∈ [(⟨0x300000⟩ : PhysAddr), ⟨0x200000⟩], apart ⟨0x300008⟩ 8 g 8 = true :=
  ⟨rfl, rfl, by decide, by decide, listed_freeList, by decide⟩

theorem witness_AllocatorRefinesAStackOverACursor_push : FreeList listed [⟨0x300000⟩, ⟨0x200000⟩] ∧
    (⟨0x300008⟩ : PhysAddr) ≠ ⟨0⟩ ∧ listed.inMemory ⟨0x300008⟩ 8 = true ∧
    ∀ g ∈ [(⟨0x300000⟩ : PhysAddr), ⟨0x200000⟩], apart ⟨0x300008⟩ 8 g 8 = true :=
  ⟨listed_freeList, by decide, by decide, by decide⟩
theorem witness_AllocatorRefinesAStackOverACursor_pop : FreeList listed (⟨0x300000⟩ :: [⟨0x200000⟩]) := listed_freeList
theorem witness_AllocatorRefinesAStackOverACursor_bump : FreeList (sized ready 0x101000 0x101000) [] ∧
    (sized ready 0x101000 0x101000).heapTop.val.toNat + 4096 ≤ (sized ready 0x101000 0x101000).params.heapLimit ∧
    (sized ready 0x101000 0x101000).inMemory (sized ready 0x101000 0x101000).heapTop 4096 = true :=
  ⟨⟨rfl, rfl, rfl⟩, by decide, by decide⟩
theorem witness_AllocatorRefinesAStackOverACursor_none : FreeList (sized ready 0x100FFF (2 ^ 52)) [] ∧
    (sized ready 0x100FFF (2 ^ 52)).params.heapLimit <
      (sized ready 0x100FFF (2 ^ 52)).heapTop.val.toNat + 4096 := ⟨⟨rfl, rfl, rfl⟩, by decide⟩

theorem witness_RunOfAllocationsEmptiesTheFreeListInOrder : ∃ (fs : List PhysAddr) (s : State),
    FreeList s fs ∧ s.fatal = false ∧
    s.inbox = List.replicate fs.length (.command (encode .faAlloc)) ++ [.reset] ∧ 1 < fs.length :=
  ⟨[⟨0x300000⟩, ⟨0x200000⟩],
    { listed with inbox := List.replicate 2 (.command (encode .faAlloc)) ++ [.reset] }, listed_freeList, rfl, rfl, by decide⟩

/-- Scenario A (S6) with the fifth frame the last below `HEAP_LIMIT`. -/
theorem witness_RunOfBumpAllocationsHandsOutConsecutiveFrames : ∃ (n : Nat) (s : State), FreeList s [] ∧
    s.fatal = false ∧ s.heapTop.val.toNat + n * 4096 ≤ s.params.heapLimit ∧ s.params.heapLimit ≤ s.params.memSize ∧
    s.params.heapLimit ≤ 2 ^ 52 ∧ s.inbox = List.replicate n (.command (encode .faAlloc)) ++ [] ∧ 0 < n :=
  ⟨5, { sized ready 0x105000 0x105000 with inbox := List.replicate 5 (.command (encode .faAlloc)) },
    ⟨rfl, rfl, rfl⟩, rfl, by decide, by decide, by decide, rfl, by decide⟩

theorem witness_DoubleFreeMakesAOneFrameCycle : ∃ (f : PhysAddr) (s t u : State), s.inited = true ∧ s.lock = false ∧
    f ≠ ⟨0⟩ ∧ s.inMemory f 8 = true ∧ exec (.faFree f) s = .next t ∧ exec (.faFree f) t = .next u :=
  ⟨⟨0x100000⟩, ready, _, _, rfl, rfl, by decide, by decide, exec_after (by decide), exec_after (by decide)⟩

theorem witness_FreeingFrameZeroLosesTheFreeList : ∃ s t : State, s.inited = true ∧ s.lock = false ∧
    8 ≤ s.params.memSize ∧ exec (.faFree ⟨0⟩) s = .next t ∧ s.heapTop.val.toNat + 4096 ≤ s.params.heapLimit ∧
    s.inMemory s.heapTop 4096 = true :=
  ⟨listed, _, rfl, rfl, by decide, exec_after (by decide), by decide, by decide⟩

theorem witness_HeldLockIsAHang : (({ State.reset with lock := true } : State).lock = true ∧
    ({ State.reset with lock := true } : State).inited = false) ∧ ({ ready with lock := true } : State).lock = true ∧
    ({ ready with lock := true } : State).inited = true := by decide

theorem witness_EveryCommandTerminatesAndFreesTheLock : State.reset.lock = false := rfl

theorem witness_WalkerCommandsNeedARoot : needsRoot .ptEnable = true ∧ needsRoot (.ptMapRegion ⟨0⟩ ⟨0⟩ 0 0) = true ∧
    ready.ptValid = false := by decide

/-! The seven clauses of `PtCreateAdoptsAZeroedFrame`; the first three share their states with `FA_ALLOC`. -/

theorem witness_PtCreateAdoptsAZeroedFrame_order : State.reset.lock = false ∧ State.reset.inited = false := by decide
theorem witness_PtCreateAdoptsAZeroedFrame_none : ∃ s : State, s.lock = false ∧ s.inited = true ∧ s.freeHead = ⟨0⟩ ∧
    s.params.heapLimit < s.heapTop.val.toNat + 4096 := ⟨sized ready 0x100FFF (2 ^ 52), by decide⟩
theorem witness_PtCreateAdoptsAZeroedFrame_pop : ∃ s : State, s.lock = false ∧ s.inited = true ∧ s.freeHead ≠ ⟨0⟩ ∧
    s.inMemory s.freeHead 4096 = true := ⟨sized listed 0x301000 0x301000, by decide⟩
theorem witness_PtCreateAdoptsAZeroedFrame_bump : ∃ s : State, s.lock = false ∧ s.inited = true ∧ s.freeHead = ⟨0⟩ ∧
    s.heapTop.val.toNat + 4096 ≤ s.params.heapLimit ∧ s.inMemory s.heapTop 4096 = true :=
  ⟨sized ready 0x101000 0x101000, by decide⟩
theorem witness_PtCreateAdoptsAZeroedFrame_pop_bus : ∃ s : State, s.lock = false ∧ s.inited = true ∧
    s.freeHead ≠ ⟨0⟩ ∧ s.inMemory s.freeHead 8 = false := ⟨sized listed 0x300007 0x300007, by decide⟩
theorem witness_PtCreateAdoptsAZeroedFrame_zero_bus : ∃ s : State, s.lock = false ∧ s.inited = true ∧
    s.freeHead ≠ ⟨0⟩ ∧ s.inMemory s.freeHead 8 = true ∧ s.inMemory s.freeHead 4096 = false :=
  ⟨sized listed 0x300FFF 0x300FFF, by decide⟩
theorem witness_PtCreateAdoptsAZeroedFrame_bump_bus : ∃ s : State, s.lock = false ∧ s.inited = true ∧
    s.freeHead = ⟨0⟩ ∧ s.heapTop.val.toNat + 4096 ≤ s.params.heapLimit ∧ s.inMemory s.heapTop 4096 = false :=
  ⟨sized ready 0x101000 0x100FFF, by decide⟩

theorem witness_PtEnableCopiesTheRoot : rooted.ptValid = true ∧ ready.ptValid = false := by decide

theorem witness_PtMapOnExistingTablesMakesFourWrites : mapped.pathReady page = true := by decide

/-- The third frame is the last below `HEAP_LIMIT`. -/
theorem witness_PtMapGrowsThreeTablesFromTheBumpPath : ∃ (v : VirtAddr) (s : State), s.ptValid = true ∧
    s.inited = true ∧ s.lock = false ∧ s.freeHead = ⟨0⟩ ∧ pageAligned s.heapTop.val = true ∧
    s.heapTop.val.toNat + 3 * 4096 ≤ s.params.heapLimit ∧ s.params.heapLimit ≤ s.params.memSize ∧
    s.params.heapLimit ≤ 2 ^ 52 ∧ s.inMemory (s.pathSlot v .l4) 8 = true ∧ s.pathEntry v .l4 = 0 ∧
    apart (s.pathSlot v .l4) 8 s.heapTop (3 * 4096) = true :=
  ⟨⟨0xFFFFFFFFF000⟩, sized rooted 0x104000 0x104000, by decide⟩

/-- The tables of `page` in `mapped`, level by level. -/
theorem mapped_tables : (∀ l ∈ [Level.l4, .l3, .l2, .l1], frameAddress (mapped.pathTableAt page l) = true ∧
    mapped.inMemory (mapped.pathTableAt page l) Config.frameSize = true ∧
    (mapped.pathTableAt page l).val.toNat + Config.frameSize ≤ mapped.heapTop.val.toNat) := by decide

theorem mem_levels (l : Level) : l ∈ [Level.l4, .l3, .l2, .l1] := by cases l <;> decide

/-- A page whose tables all exist, with nothing on the free list. -/
theorem witness_MapThenRetrieveGivesTheFrameBack_mapped : MapPlaced mapped page [] where
  rootValid := rfl
  freeList := ⟨rfl, rfl, rfl⟩
  tablesAreFrames l _ := ⟨(mapped_tables l (mem_levels l)).1, (mapped_tables l (mem_levels l)).2.1⟩
  tablesDistinct l l' _ _ h := by cases l <;> cases l' <;> first | exact absurd rfl h | decide
  freeAreFrames f h := by cases h
  freeDistinct := .nil
  freeNotTables f h := by cases h
  cursorAligned := by decide
  limitInDomain := by decide
  tablesOutsideBump l _ := .inl (mapped_tables l (mem_levels l)).2.2
  freeOutsideBump f h := by cases h

/-- In `rootedListed` the root is the only table on the path of `page`. -/
theorem rootedListed_reached {l : Level} (h : rootedListed.reached page l) : l = .l4 := by
  cases l
  case l4 => rfl
  all_goals exact absurd (h .l4 (by decide)) (by decide)

/-- A page with no table but the root, two frames on the free list, so that the third comes from the cursor. -/
theorem witness_MapThenRetrieveGivesTheFrameBack_grown : MapPlaced rootedListed page [⟨0x300000⟩, ⟨0x200000⟩] where
  rootValid := rfl
  freeList := ⟨rfl, rfl, rfl, by decide, by decide, by decide, by decide, by decide, rfl⟩
  tablesAreFrames l h := by rw [rootedListed_reached h]; decide
  tablesDistinct l l' h h' hn := absurd ((rootedListed_reached h).trans (rootedListed_reached h').symm) hn
  freeAreFrames := by decide
  freeDistinct := by decide
  freeNotTables f hf l h := by
    rw [rootedListed_reached h]
    revert f; decide
  cursorAligned := by decide
  limitInDomain := by decide
  tablesOutsideBump l h := by rw [rootedListed_reached h]; decide
  freeOutsideBump := by decide

theorem witness_LookupsAndUnmapFollowThePathUntested : mapped.pathInMemory page = true ∧
    rooted.pathInMemory page = true := by decide

/-- A root that is empty, and a tree whose third and second levels are. -/
theorem witness_UnusedEntrySendsTheWalkToFrameZero :
    (rooted.pathInMemory page = true ∧ rooted.pathEntry page .l4 = 0) ∧
    ((twoTables 0).pathInMemory page = true ∧ (twoTables 0).pathEntry page .l3 = 0) ∧
    ((twoTables 0x502003).pathInMemory page = true ∧ (twoTables 0x502003).pathEntry page .l3 ≠ 0 ∧
      (twoTables 0x502003).pathEntry page .l2 = 0) := by decide

/-- The last byte of the slot at each level is the first byte beyond memory. -/
theorem witness_WalkBeyondMemoryIsABusError :
    ∀ r ∈ [(Level.l4, 0x100007), (.l3, 0x101007), (.l2, 0x102007), (.l1, 0x103087)],
      (sized mapped r.2 r.2).ptValid = true ∧ (1 : Word) ≠ 0 ∧
      (∀ l' ∈ r.1.above, (sized mapped r.2 r.2).inMemory ((sized mapped r.2 r.2).pathSlot page l') 8 = true) ∧
      (sized mapped r.2 r.2).inMemory ((sized mapped r.2 r.2).pathSlot page r.1) 8 = false ∧
      (sized mapped r.2 r.2).reached page r.1 ∧ (sized mapped r.2 r.2).slotsApart page r.1.above := by
  unfold State.reached State.slotsApart
  decide

theorem witness_UnmapAfterMapIsUnusedAndIdempotent : ∃ (v : VirtAddr) (p : PhysAddr) (f : FlagWord) (s t u : State),
    s.pathReady v = true ∧ exec (.ptMap v p f) s = .next t ∧ exec (.ptUnmap v) t = .next u :=
  ⟨page, ⟨0x300000⟩, 5, mapped, _, _, by decide, exec_after (by decide), exec_after (by decide)⟩

theorem witness_RemapIsLastWriteWins : ∃ (v : VirtAddr) (p : PhysAddr) (f : FlagWord) (s t : State),
    s.pathReady v = true ∧ s.mem.wf = true ∧ exec (.ptMap v p f) s = .next t :=
  ⟨page, ⟨0x300000⟩, 5, mapped, _, by decide, by decide, exec_after (by decide)⟩

theorem witness_MapLeavesOtherPagesAlone : ∃ (v w : VirtAddr) (p : PhysAddr) (f : FlagWord) (s t : State),
    s.pathReady v = true ∧ s.pathInMemory w = true ∧ s.pathsSeparate v w ∧ exec (.ptMap v p f) s = .next t :=
  ⟨page, nextPage, ⟨0x300000⟩, 5, mapped, _, by decide, by decide,
    fun l l' => by cases l <;> cases l' <;> decide, exec_after (by decide)⟩

theorem witness_ExhaustedMapKeepsTheTablesItCreated : ∃ (v : VirtAddr) (s : State), s.ptValid = true ∧
    s.inited = true ∧ s.lock = false ∧ s.freeHead = ⟨0⟩ ∧ pageAligned s.heapTop.val = true ∧
    s.heapTop.val.toNat + 4096 ≤ s.params.heapLimit ∧ s.params.heapLimit < s.heapTop.val.toNat + 2 * 4096 ∧
    s.params.heapLimit ≤ s.params.memSize ∧ s.params.heapLimit ≤ 2 ^ 52 ∧
    s.inMemory (s.pathSlot v .l4) 8 = true ∧ s.pathEntry v .l4 = 0 ∧ apart (s.pathSlot v .l4) 8 s.heapTop 4096 = true :=
  ⟨page, sized rooted 0x102000 0x102000, by decide⟩

/-- Before `FA_INIT`: trees whose first unused entry is at level 4, at level 3 (vector W17) and at level 2. -/
theorem witness_MapBeforeInitIsFatalAtAnUnusedEntry :
    ∀ r ∈ [(Level.l4, { rooted with inited := false }), (.l3, twoTables 0), (.l2, twoTables 0x502003)],
      r.2.ptValid = true ∧ r.2.inited = false ∧ r.1 ≠ .l1 ∧
      (∀ l' ∈ r.1.above ++ [r.1], r.2.inMemory (r.2.pathSlot page l') 8 = true) ∧
      r.2.slotsApart page (r.1.above ++ [r.1]) ∧ r.2.reached page r.1 ∧ r.2.pathEntry page r.1 = 0 := by
  unfold State.reached State.slotsApart
  decide

/-- Before `FA_INIT`: an attached tree that already holds `page`. -/
theorem witness_MapBeforeInitIsFatalAtAnUnusedEntry_existing :
    ({ mapped with inited := false } : State).ptValid = true ∧ ({ mapped with inited := false } : State).inited = false ∧
      ({ mapped with inited := false } : State).pathReady page = true := by decide

theorem witness_RegionMapIsOneMapThenTheRest_goes_on : ∃ (v : VirtAddr) (p : PhysAddr) (size : Word) (f : FlagWord)
    (s t u : State), s.ptValid = true ∧ size ≠ 0 ∧ exec (.ptMap v p f) s = .next t ∧ t.lastStatus = some .ok ∧
    exec (.ptMapRegion (v.add 4096) (p.add 4096) (if size.toNat ≤ 4096 then 0 else size - 4096) f) t = .next u :=
  ⟨page, ⟨0x300000⟩, 0x1001, 3, mapped, _, _, rfl, by decide, exec_after (by decide), by decide, exec_after (by decide)⟩
theorem witness_RegionMapIsOneMapThenTheRest_stops : ∃ (v : VirtAddr) (p : PhysAddr) (size : Word) (f : FlagWord)
    (s t : State), size ≠ 0 ∧ exec (.ptMap v p f) s = .next t ∧ t.lastStatus ≠ some .ok :=
  ⟨page, ⟨0x300000⟩, 1, 3, sized rooted 0x101000 (2 ^ 52), _, by decide, exec_after (by decide), by decide⟩

theorem witness_RegionUnmapIsOneUnmapThenTheRest_goes_on : ∃ (v : VirtAddr) (size : Word) (s t u : State),
    s.ptValid = true ∧ size ≠ 0 ∧ exec (.ptUnmap v) s = .next t ∧ t.lastStatus = some .ok ∧
    exec (.ptUnmapRegion (v.add 4096) (if size.toNat ≤ 4096 then 0 else size - 4096)) t = .next u :=
  ⟨page, 0x1001, mapped, _, _, rfl, by decide, exec_after (by decide), by decide, exec_after (by decide)⟩
theorem witness_RegionUnmapIsOneUnmapThenTheRest_stops : ∃ (v : VirtAddr) (size : Word) (s t : State),
    size ≠ 0 ∧ exec (.ptUnmap v) s = .next t ∧ t.lastStatus ≠ some .ok :=
  ⟨page, 1, ready, _, by decide, exec_after (by decide), by decide⟩

/-- A region that ends with its table, and the empty region. -/
theorem witness_RegionMapUnderOneTableMapsEveryPage :
    (mapped.pathReady page = true ∧ mapped.inMemory (mapped.pathTableAt page .l1) 4096 = true ∧
      ∀ l ∈ interiorLevels, apart (mapped.pathSlot page l) 8 (mapped.pathTableAt page .l1) 4096 = true) ∧
    (index page .l1).toNat + ((0x1F0000 : Word).toNat + 4095) / 4096 = 512 ∧
    (index page .l1).toNat + ((0 : Word).toNat + 4095) / 4096 ≤ 512 := by decide

/-- The root is the last frame of memory. -/
theorem witness_RegionUnmapCompletesOverWholeMemory :
    ∃ s : State, s.ptValid = true ∧ 2 ^ 52 ≤ s.params.memSize ∧ s.ptRoot.val.toNat + 4096 ≤ s.params.memSize ∧
      s.ptRoot.val.toNat + 4096 ≤ 2 ^ 64 := ⟨{ rooted with ptRoot := ⟨0xFFFFFFFFFF000⟩ }, by decide⟩

theorem witness_EnabledMappingIsWhatTheConsumerReads : ∃ (v : VirtAddr) (p : PhysAddr) (f : FlagWord) (s t u : State),
    s.pathReady v = true ∧ f.getLsbD 0 = true ∧ exec (.ptMap v p f) s = .next t ∧ exec .ptEnable t = .next u :=
  ⟨page, ⟨0x300000⟩, 5, mapped, _, _, by decide, by decide, exec_after (by decide), exec_after (by decide)⟩

/-- The invariant at a state with tables, a free list being empty, and a host action waiting. -/
theorem witness_EveryStepKeepsTheInvariant : ∃ s t : State, Inv s ∧ step s = .next t ∧ t ≠ s :=
  ⟨{ mapped with inbox := [.command (encode (.ptMap ⟨0x8000000000⟩ ⟨0x400000⟩ 3))] }, _,
    { memCanonical := by decide, memInside := by decide, paramsInDomain := by decide, lockClear := by decide
      causeMatchesFatal := by decide, untouchedBeforeInit := by decide, rootUnset := by decide
      cursorOnFrame := ⟨4, by decide⟩, cursorBounded := by decide },
    step_stepped (by decide), by decide⟩

/-- One command for each status and cause. -/
theorem witness_StatusesAndCausesComeFromTheirCommandsOnly :
    (∃ i s t, exec i s = .next t ∧ t.lastStatus = some .none) ∧
    (∃ i s t, exec i s = .next t ∧ t.lastStatus = some .fatal ∧ t.fatalCause = 1) ∧
    (∃ i s t, exec i s = .next t ∧ t.lastStatus = some .fatal ∧ t.fatalCause = 2) ∧
    ∃ i s t, exec i s = .next t ∧ t.lastStatus = some .fatal ∧ t.fatalCause = 3 :=
  ⟨⟨.faAlloc, sized ready 0x100000 (2 ^ 52), _, exec_after (by decide), by decide⟩,
    ⟨.faAlloc, .reset, _, exec_after (by decide), by decide⟩,
    ⟨.ptEnable, .reset, _, exec_after (by decide), by decide⟩,
    ⟨.faFree ⟨0x1FFFFC⟩, sized ready 0x200000 0x200000, _, exec_after (by decide), by decide⟩⟩

theorem witness_ActiveRootAndHeapBaseAreNeverRead : ∃ (i : Instr) (s t : State), i ≠ .ptEnable ∧
    (∀ a, i ≠ .faInit a) ∧ exec i s = .next t :=
  ⟨.ptMap page ⟨0x300000⟩ 3, mapped, _, by decide, fun _ h => (by cases h), exec_after (by decide)⟩

theorem witness_RegistersAreWrittenByTheirCommandsOnly : ∃ (i : Instr) (s t : State), exec i s = .next t ∧
    t.heapTop ≠ s.heapTop := ⟨.ptMap page ⟨0x300000⟩ 3, rooted, _, exec_after (by decide), by decide⟩

/-- A map that creates three tables; a byte just past the last slot it writes is outside. -/
theorem witness_MemoryIsUnchangedOutsideTheBytesStored : ∃ (i : Instr) (s t : State) (x : Nat), exec i s = .next t ∧
    t.mem ≠ s.mem ∧ ∀ r ∈ stores i s, outside x r.1 r.2 :=
  ⟨.ptUnmap page, mapped, _, 0x103088, exec_after (by decide), by decide, by unfold outside; decide⟩

end Sys2Proof.Tests
end

/-! ### What every command keeps

A property of the state that the block's own updates keep, each under the guard its rule puts before it, is kept by
every command, whether it answers or raises. The walker's loops are gone through once, here, for every such property. -/

namespace Sys2Proof.Machine

variable {α β : Type} {R : State → Prop}

/-- `R` holds at the command boundary a procedure leads to: of the state it yields its value in, or of the fatal state
it raises. Unlike `Eff.Leaves`, it asks nothing of a state with `LOCK` held that `raise Fatal` is about to clear (R103). -/
def Eff.EndsIn (R : State → Prop) : Eff α → Prop
  | .done _ s => R s
  | .raised c s => R (s.raiseFatal c)
  | .hung => True

@[simp] theorem Eff.endsIn_done (a : α) (s : State) : (Eff.done a s).EndsIn R ↔ R s := Iff.rfl
@[simp] theorem Eff.endsIn_raised (c : FatalCause) (s : State) :
    (Eff.raised c s : Eff α).EndsIn R ↔ R (s.raiseFatal c) := Iff.rfl
@[simp] theorem Eff.endsIn_hung : (Eff.hung : Eff α).EndsIn R ↔ True := Iff.rfl

theorem Eff.endsIn_bind {e : Eff α} {k : α → State → Eff β} (he : e.EndsIn R)
    (hk : ∀ a s, R s → (k a s).EndsIn R) : (e.bind k).EndsIn R := by
  cases e with
  | done a s => exact hk a s he
  | raised c s => exact he
  | hung => trivial

/-- `R` survives each update the commands make of the state, under the guard that stands before it. -/
structure KeptByUpdates (R : State → Prop) : Prop where
  respond : ∀ s st r0 r1, R s → R (s.respond st r0 r1)
  raiseFatal : ∀ s c, R s → R (s.raiseFatal c)
  writeWord : ∀ s a w, s.inMemory a 8 = true → R s → R (s.withMem (s.mem.writeWord a w))
  zeroRange : ∀ s f, s.inMemory f Config.frameSize = true → R s →
    R (s.withMem (s.mem.zeroRange f.val.toNat Config.frameSize))
  initialised : ∀ s f, s.inited = false → R s → R (s.initialised f)
  withFreeHead : ∀ s f, s.inited = true → R s → R (s.withFreeHead f)
  bump : ∀ s, s.inited = true → s.heapExhausted = false → R s →
    R (s.withHeapTop (s.heapTop.add (BitVec.ofNat 64 Config.frameSize)))
  withRoot : ∀ s r, R s → R (s.withRoot r)
  withActiveRoot : ∀ s r, R s → R (s.withActiveRoot r)

namespace KeptByUpdates

/-! #### Memory access and the allocator -/

theorem memRead_endsIn (hR : KeptByUpdates R) (a : PhysAddr) {s : State} (h : R s) : (memRead a s).EndsIn R := by
  unfold memRead; split
  · exact h
  · exact hR.raiseFatal _ _ h

theorem memWrite_endsIn (hR : KeptByUpdates R) (a : PhysAddr) (w : Word) {s : State} (h : R s) :
    (memWrite a w s).EndsIn R := by
  unfold memWrite; split
  · next hm => exact hR.writeWord _ _ _ hm h
  · exact hR.raiseFatal _ _ h

theorem zeroFrame_endsIn (hR : KeptByUpdates R) (f : PhysAddr) {s : State} (h : R s) : (zeroFrame f s).EndsIn R := by
  unfold zeroFrame; split
  · next hm => exact hR.zeroRange _ _ hm h
  · exact hR.raiseFatal _ _ h

theorem alloc_endsIn (hR : KeptByUpdates R) {s : State} (h : R s) : (alloc s).EndsIn R := by
  rcases alloc_cases s with ⟨-, e⟩ | ⟨-, -, e⟩ |
    ⟨hi, -, ⟨-, -, e⟩ | ⟨-, -, e⟩ | ⟨-, -, e⟩ | ⟨-, hx, hm, e⟩ | ⟨-, hx, -, e⟩⟩ <;> rw [e]
  · exact hR.raiseFatal _ _ h
  · trivial
  · exact hR.withFreeHead _ _ hi h
  · exact hR.raiseFatal s .bus h
  · exact h
  · have hz := hR.zeroRange _ s.heapTop (by rwa [State.withHeapTop_inMemory]) (hR.bump _ hi hx h)
    rwa [State.withHeapTop_mem] at hz
  · exact hR.raiseFatal (s.withHeapTop _) .bus (hR.bump _ hi hx h)

theorem free_endsIn (hR : KeptByUpdates R) (f : PhysAddr) {s : State} (h : R s) : (free f s).EndsIn R := by
  rcases free_cases f s with ⟨-, e⟩ | ⟨-, -, e⟩ | ⟨hi, -, ⟨hm, e⟩ | ⟨-, e⟩⟩ <;> rw [e]
  · exact hR.raiseFatal _ _ h
  · trivial
  · exact hR.writeWord _ _ _ hm (hR.withFreeHead _ _ hi h)
  · exact hR.raiseFatal s .bus h

/-! #### The walker -/

theorem requireRoot_endsIn (hR : KeptByUpdates R) {s : State} (h : R s) : (requireRoot s).EndsIn R := by
  unfold requireRoot; split
  · exact h
  · exact hR.raiseFatal _ _ h

theorem findL1_endsIn (hR : KeptByUpdates R) (v : VirtAddr) {s : State} (h : R s) : (findL1 v s).EndsIn R := by
  rcases findL1_cases v s with e | e <;> rw [e]
  · exact h
  · exact hR.raiseFatal _ _ h

theorem unmapOne_endsIn (hR : KeptByUpdates R) (v : VirtAddr) {s : State} (h : R s) : (unmapOne v s).EndsIn R :=
  Eff.endsIn_bind (hR.findL1_endsIn v h) fun _ _ h => hR.memWrite_endsIn _ _ h

theorem unmapPages_endsIn (hR : KeptByUpdates R) (v : VirtAddr) (n k : Nat) {s : State} (h : R s) :
    (unmapPages v n k s).EndsIn R := by
  induction n generalizing k s with
  | zero => exact h
  | succ n ih => exact Eff.endsIn_bind (hR.unmapOne_endsIn _ h) fun _ _ h => ih _ h

theorem growTable_endsIn (hR : KeptByUpdates R) (a : PhysAddr) {s : State} (h : R s) : (growTable a s).EndsIn R := by
  refine Eff.endsIn_bind (hR.alloc_endsIn h) fun n s h => ?_
  cases n with
  | none => exact h
  | some n =>
    exact Eff.endsIn_bind (hR.zeroFrame_endsIn n h) fun _ _ h =>
      Eff.endsIn_bind (hR.memWrite_endsIn _ _ h) fun _ _ h => h

theorem descendLevel_endsIn (hR : KeptByUpdates R) (v : VirtAddr) (l : Level) (t : PhysAddr) {s : State} (h : R s) :
    (descendLevel v l t s).EndsIn R := by
  refine Eff.endsIn_bind (hR.memRead_endsIn _ h) fun e s h => Eff.endsIn_bind ?_ fun _ _ h => h
  split
  · exact hR.growTable_endsIn _ h
  · exact Eff.endsIn_bind (hR.memWrite_endsIn _ _ h) fun _ _ h => h

theorem descend_endsIn (hR : KeptByUpdates R) (v : VirtAddr) (ls : List Level) (t : PhysAddr) {s : State} (h : R s) :
    (descend v ls t s).EndsIn R := by
  induction ls generalizing t s with
  | nil => exact h
  | cons l ls ih =>
    refine Eff.endsIn_bind (hR.descendLevel_endsIn v l t h) fun t s h => ?_
    cases t with
    | none => exact h
    | some t => exact ih t h

theorem mapOne_endsIn (hR : KeptByUpdates R) (v : VirtAddr) (p : PhysAddr) (f : FlagWord) {s : State} (h : R s) :
    (mapOne v p f s).EndsIn R := by
  refine Eff.endsIn_bind (hR.descend_endsIn v _ _ h) fun t s h => ?_
  cases t with
  | none => exact h
  | some t => exact Eff.endsIn_bind (hR.memWrite_endsIn _ _ h) fun _ _ h => h

theorem mapPages_endsIn (hR : KeptByUpdates R) (v : VirtAddr) (p : PhysAddr) (f : FlagWord) (n k : Nat) {s : State}
    (h : R s) : (mapPages v p f n k s).EndsIn R := by
  induction n generalizing k s with
  | zero => exact h
  | succ n ih =>
    refine Eff.endsIn_bind (hR.mapOne_endsIn _ _ _ h) fun st s h => ?_
    split
    · exact h
    · exact ih _ h

/-! #### The commands -/

theorem of_finish (hR : KeptByUpdates R) {e : Eff Response} {t : State} (h : e.finish = .next t) (he : e.EndsIn R) :
    R t := by
  rcases Eff.finish_eq_next.1 h with ⟨r, s, rfl, rfl⟩ | ⟨c, s, rfl, rfl⟩
  · exact hR.respond _ _ _ _ he
  · exact he

theorem of_answerOk (hR : KeptByUpdates R) {s t : State} {r0 r1 : Word} (hs : R s) (h : answerOk s r0 r1 = .next t) :
    R t := by
  cases h
  exact hR.respond _ _ _ _ hs

/-- `FA_INIT` takes and releases the lock around its three writes, so the state it leaves is `initialised`. -/
theorem of_execFaInit (hR : KeptByUpdates R) {f : PhysAddr} {s t : State} (hs : R s)
    (h : execFaInit f s = .next t) : R t := by
  refine hR.of_finish h ?_
  split
  · exact hR.raiseFatal _ _ hs
  · next hi =>
    rw [Bool.not_eq_true] at hi
    by_cases hl : s.lock = true
    · simp [lockAcquire, hl]
    · have hw : lockRelease ((s.withLock true).initialised f) = s.initialised f := by
        rw [Bool.not_eq_true] at hl
        cases s; simp_all [lockRelease, State.withLock, State.initialised]
      simpa [lockAcquire, hl, hw] using hR.initialised _ f hi hs

end KeptByUpdates

/-- A pure command answers `OK` with results its operands alone decide (R38 to R43, R55 to R63). -/
theorem exec_pure {i : Instr} (hi : isPure i = true) : ∃ r0 r1, ∀ s, exec i s = answerOk s r0 r1 := by
  cases i with
  | vaIndex v l =>
    refine ⟨(levelOfWord l).elim Config.indexSentinel fun l' => (index v l').setWidth 64, 0, fun s => ?_⟩
    cases hl : levelOfWord l <;> simp only [exec, execVaIndex, hl, Option.elim]
  | faInit | faAlloc | faFree | ptCreate | ptAttach | ptMap | ptUnmap | ptGetL1 | ptRetrieve | ptMapRegion
  | ptUnmapRegion | ptEnable => cases hi
  | _ => exact ⟨_, _, fun _ => rfl⟩

/-- Every command keeps what the updates keep. -/
theorem KeptByUpdates.of_exec (hR : KeptByUpdates R) {i : Instr} {s t : State} (hs : R s) (h : exec i s = .next t) :
    R t := by
  by_cases hp : isPure i = true
  · obtain ⟨r0, r1, he⟩ := exec_pure hp
    exact hR.of_answerOk hs ((he s).symm.trans h)
  cases i with
  | faInit f => exact hR.of_execFaInit hs h
  | faAlloc =>
    refine hR.of_finish h (Eff.endsIn_bind (hR.alloc_endsIn hs) fun f s hs => ?_)
    cases f <;> exact hs
  | faFree f => exact hR.of_finish h (Eff.endsIn_bind (hR.free_endsIn f hs) fun _ _ hs => hs)
  | ptCreate =>
    refine hR.of_finish h (Eff.endsIn_bind (hR.alloc_endsIn hs) fun n s hs => ?_)
    cases n with
    | none => exact hs
    | some n => exact Eff.endsIn_bind (hR.zeroFrame_endsIn n hs) fun _ _ hs => hR.withRoot _ n hs
  | ptAttach r => exact hR.of_answerOk (hR.withRoot _ r hs) h
  | ptMap v p f =>
    exact hR.of_finish h (Eff.endsIn_bind (hR.requireRoot_endsIn hs) fun _ _ hs =>
      Eff.endsIn_bind (hR.mapOne_endsIn v p f hs) fun _ _ hs => hs)
  | ptUnmap v =>
    exact hR.of_finish h (Eff.endsIn_bind (hR.requireRoot_endsIn hs) fun _ _ hs =>
      Eff.endsIn_bind (hR.unmapOne_endsIn v hs) fun _ _ hs => hs)
  | ptGetL1 v | ptRetrieve v =>
    exact hR.of_finish h (Eff.endsIn_bind (hR.requireRoot_endsIn hs) fun _ _ hs =>
      Eff.endsIn_bind (hR.findL1_endsIn v hs) fun a _ hs =>
        Eff.endsIn_bind (hR.memRead_endsIn a hs) fun _ _ hs => hs)
  | ptMapRegion v p n f =>
    exact hR.of_finish h (Eff.endsIn_bind (hR.requireRoot_endsIn hs) fun _ _ hs =>
      hR.mapPages_endsIn v p f _ 0 hs)
  | ptUnmapRegion v n =>
    exact hR.of_finish h (Eff.endsIn_bind (hR.requireRoot_endsIn hs) fun _ _ hs =>
      hR.unmapPages_endsIn v _ 0 hs)
  | ptEnable =>
    exact hR.of_finish h (Eff.endsIn_bind (hR.requireRoot_endsIn hs) fun s _ hs => hR.withActiveRoot _ _ hs)
  | _ => exact absurd rfl hp

/-! ### The invariant -/

/-- The registers are not touched where memory changes: memory's own two clauses are all there is to show. -/
theorem Inv.withMem {s : State} (h : Inv s) {m : Memory} (hw : m.wf = true) (hi : ∀ c ∈ m, c.1 < s.params.memSize) :
    Inv (s.withMem m) :=
  { h with memCanonical := hw, memInside := hi }

/-- A run of bytes that lies in memory keeps the invariant, whoever writes it. -/
theorem Inv.writeBytes {s : State} (h : Inv s) (a : PhysAddr) (bs : List Byte)
    (hm : s.inMemory a bs.length = true) : Inv (s.withMem (s.mem.writeBytes a.val.toNat bs)) := by
  refine h.withMem (Memory.wf_writeBytes _ _ _ h.memCanonical) fun c hc => ?_
  obtain ⟨hsize, -⟩ := (State.inMemory_iff _ _ _).1 hm
  rcases Memory.mem_writeBytes bs hc with hc | ⟨-, hlt⟩
  · exact h.memInside c hc
  · omega

theorem Inv.zeroRange {s : State} (h : Inv s) (a n : Nat) : Inv (s.withMem (s.mem.zeroRange a n)) :=
  h.withMem (Memory.wf_zeroRange _ _ _ h.memCanonical) fun c hc => h.memInside c (Memory.mem_zeroRange hc)

/-- R104: no cause has the code 0. -/
theorem FatalCause.code_ne_zero (c : FatalCause) : c.code ≠ 0 := by cases c <;> decide

theorem Inv.raiseFatal {s : State} (h : Inv s) (c : FatalCause) : Inv (s.raiseFatal c) :=
  { h with lockClear := rfl, causeMatchesFatal := by simpa using c.code_ne_zero }

theorem Inv.initialised {s : State} (h : Inv s) (f : PhysAddr) : Inv (s.initialised f) :=
  { h with
    untouchedBeforeInit := by simp
    cursorOnFrame := ⟨0, by simp⟩
    cursorBounded := .inl rfl }

theorem Inv.withFreeHead {s : State} (h : Inv s) (f : PhysAddr) (hi : s.inited = true) : Inv (s.withFreeHead f) :=
  { h with untouchedBeforeInit := by simp [hi] }

/-- R67: a frame below `HEAP_LIMIT` is left, and `HEAP_LIMIT` is at most 2^52, so the cursor moves without wrapping. -/
theorem Inv.toNat_heapTop_add {s : State} (h : Inv s) (hx : s.heapExhausted = false) :
    (s.heapTop.add (BitVec.ofNat 64 Config.frameSize)).val.toNat = s.heapTop.val.toNat + Config.frameSize ∧
      s.heapTop.val.toNat + Config.frameSize ≤ s.params.heapLimit := by
  have hfit := State.heapExhausted_eq_false.1 hx
  have hdom := h.paramsInDomain
  simp only [Config.Params.inDomain, Bool.and_eq_true, decide_eq_true_eq] at hdom
  obtain ⟨⟨-, hlimit⟩, -⟩ := hdom
  refine ⟨?_, hfit⟩
  simp only [PhysAddr.add, Config.frameSize, BitVec.toNat_add, BitVec.toNat_ofNat]
  omega

theorem Inv.withHeapTop {s : State} (h : Inv s) (hi : s.inited = true) {f : PhysAddr}
    (hf : f.val.toNat = s.heapTop.val.toNat + Config.frameSize) (hle : f.val.toNat ≤ s.params.heapLimit) :
    Inv (s.withHeapTop f) := by
  obtain ⟨k, hk⟩ := h.cursorOnFrame
  exact { h with
    untouchedBeforeInit := by simp [hi]
    cursorOnFrame := ⟨k + 1, by rw [State.withHeapTop_heapTop, State.withHeapTop_heapBase, hf, hk]; ring⟩
    cursorBounded := .inr hle }

/-- The bump path moves the cursor one frame on, and not past `HEAP_LIMIT` (R66, R67). -/
theorem Inv.bump {s : State} (h : Inv s) (hi : s.inited = true) (hx : s.heapExhausted = false) :
    Inv (s.withHeapTop (s.heapTop.add (BitVec.ofNat 64 Config.frameSize))) := by
  obtain ⟨hadd, hle⟩ := h.toNat_heapTop_add hx
  exact h.withHeapTop hi hadd (hadd.trans_le hle)

theorem Inv.keptByUpdates : KeptByUpdates Inv where
  respond _ _ _ _ h := { h with }
  raiseFatal _ c h := h.raiseFatal c
  writeWord _ a w hm h := h.writeBytes a (bytesOfWord w) hm
  zeroRange _ _ _ h := h.zeroRange _ _
  initialised _ f _ h := h.initialised f
  withFreeHead _ f hi h := h.withFreeHead f hi
  bump _ hi hx h := h.bump hi hx
  withRoot _ _ h := { h with rootUnset := by simp }
  withActiveRoot _ _ h := { h with }

/-- R116: every register is at its reset value again, and memory and the parameters are as they were. -/
theorem Inv.applyReset {s : State} (h : Inv s) : Inv s.applyReset where
  memCanonical := h.memCanonical
  memInside := h.memInside
  paramsInDomain := h.paramsInDomain
  lockClear := rfl
  causeMatchesFatal := by simp
  untouchedBeforeInit _ := ⟨rfl, rfl, rfl⟩
  rootUnset _ := rfl
  cursorOnFrame := ⟨0, by simp⟩
  cursorBounded := .inl rfl

/-- R36: in the fatal state only the response is written; outside it an illegal packet is answered and a legal one
executed. -/
theorem Inv.of_processPacket {p : Packet} {s t : State} (hs : Inv s) (h : processPacket p s = .next t) : Inv t := by
  unfold processPacket at h
  split at h
  · cases h
    exact Inv.keptByUpdates.respond _ _ _ _ hs
  · split at h
    · exact Inv.keptByUpdates.of_exec hs h
    · cases h
      exact Inv.keptByUpdates.respond _ _ _ _ hs

/-- R113: what the host writes lies in memory, or the write has no next state. -/
theorem Inv.of_hostWrite {a : PhysAddr} {bs : List Byte} {s t : State} (hs : Inv s)
    (h : hostWrite a bs s = .next t) : Inv t := by
  unfold hostWrite at h
  split at h
  · next hm =>
    cases h
    exact hs.writeBytes a bs hm
  · cases h

theorem Inv.of_perform {act : HostAction} {s t : State} (hs : Inv s) (h : perform act s = .next t) : Inv t := by
  cases act with
  | command p => exact hs.of_processPacket h
  | write a bs => exact hs.of_hostWrite h
  | reset =>
    cases h
    exact hs.applyReset

/-- Settles O54: the host's next action is taken off the queue, which no clause speaks of, and keeps the invariant
whichever it is. -/
theorem everyStepKeepsTheInvariant : Obligations.EveryStepKeepsTheInvariant := by
  intro s t hs h
  unfold step runNext at h
  split at h
  · cases h
    exact hs
  · next act rest _ =>
    have hq : Inv (s.withInbox rest) := { hs with }
    exact hq.of_perform h

end Sys2Proof.Machine

/-! ### Reset, and the pure commands -/

namespace Sys2Proof.Machine

/-- Settles O8: `State.reset` writes R19's nine values out. -/
theorem resetStateHoldsTheSpecsValues : Obligations.ResetStateHoldsTheSpecsValues :=
  ⟨rfl, rfl, rfl, rfl, rfl, rfl, rfl, rfl, rfl⟩

/-- Settles O55: memory lists nothing, the cursor stands at the base, and the parameters lie in their domain. -/
theorem resetMeetsTheInvariant : Obligations.ResetMeetsTheInvariant where
  memCanonical := rfl
  memInside _ hc := absurd hc List.not_mem_nil
  paramsInDomain := by decide
  lockClear := rfl
  causeMatchesFatal := by decide
  untouchedBeforeInit _ := ⟨rfl, rfl, rfl⟩
  rootUnset _ := rfl
  cursorOnFrame := ⟨0, rfl⟩
  cursorBounded := .inl rfl

/-- Settles O21: every arm of families 1 and 2 is `answerOk` with one result word; `VA_INDEX` is so at a level and at
the sentinel alike. -/
theorem pureCommandsChangeOnlyTheResponse : Obligations.PureCommandsChangeOnlyTheResponse := by
  intro i s hi
  cases i with
  | vaIndex v l => cases hl : levelOfWord l <;> exact ⟨_, by simp only [exec, execVaIndex, hl]; rfl⟩
  | faInit | faAlloc | faFree | ptCreate | ptAttach | ptMap | ptUnmap | ptGetL1 | ptRetrieve | ptMapRegion
  | ptUnmapRegion | ptEnable => cases hi
  | _ => exact ⟨_, rfl⟩

end Sys2Proof.Machine

/-! ### Which command writes which register -/

namespace Sys2Proof.Machine

/-- What the procedures of command `i`, run from `s`, may have done to the registers on reaching `u`. `LOCK` is left
out, being held while a procedure runs, and `FATAL` with its cause is as before: only the end of a command raises it
(R103). -/
structure RegistersWrittenBy (i : Instr) (s u : State) : Prop where
  freeHead : u.freeHead = s.freeHead ∨ callsAlloc i = true ∨ ∃ f, i = .faFree f
  heapTop : u.heapTop = s.heapTop ∨ callsAlloc i = true ∨ ∃ a, i = .faInit a
  base : u.heapBase = s.heapBase ∧ u.inited = s.inited ∨ ∃ a, i = .faInit a
  root : u.ptRoot = s.ptRoot ∧ u.ptValid = s.ptValid ∨ i = .ptCreate ∨ ∃ r, i = .ptAttach r
  activeRoot : u.activeRoot = s.activeRoot ∨ i = .ptEnable
  fatal : u.fatal = s.fatal ∧ u.fatalCause = s.fatalCause
  platform : u.params = s.params ∧ u.inbox = s.inbox ∧ u.resetDraws = s.resetDraws

namespace RegistersWrittenBy

variable {i : Instr} {s u : State}

theorem refl (i : Instr) (s : State) : RegistersWrittenBy i s s :=
  ⟨.inl rfl, .inl rfl, .inl ⟨rfl, rfl⟩, .inl ⟨rfl, rfl⟩, .inl rfl, ⟨rfl, rfl⟩, ⟨rfl, rfl, rfl⟩⟩

theorem withMem (s' : State) (m : Memory) (h : RegistersWrittenBy i s s') : RegistersWrittenBy i s (s'.withMem m) :=
  { h with }

theorem withHeapTop (h : RegistersWrittenBy i s u) (hi : callsAlloc i = true) (f : PhysAddr) :
    RegistersWrittenBy i s (u.withHeapTop f) :=
  { h with heapTop := .inr (.inl hi) }

theorem withLock (h : RegistersWrittenBy i s u) (b : Bool) : RegistersWrittenBy i s (u.withLock b) := { h with }

/-- R66: `Alloc()` writes no register but `FREE_HEAD`, `HEAP_TOP` and `LOCK`, whichever path it takes. -/
theorem alloc_leaves (hi : callsAlloc i = true) (u : State) (h : RegistersWrittenBy i s u) :
    (alloc u).Leaves (RegistersWrittenBy i s) := by
  rcases alloc_cases u with ⟨-, e⟩ | ⟨-, -, e⟩ |
    ⟨-, -, ⟨-, -, e⟩ | ⟨-, -, e⟩ | ⟨-, -, e⟩ | ⟨-, -, -, e⟩ | ⟨-, -, -, e⟩⟩ <;> rw [e]
  · exact h
  · trivial
  · exact { h with freeHead := .inr (.inl hi) }
  · exact h.withLock true
  · exact h
  · exact withMem _ _ (h.withHeapTop hi _)
  · exact (h.withLock true).withHeapTop hi _

/-- R68: `Free(f)` writes no register but `FREE_HEAD` and `LOCK`. -/
theorem free_leaves (f : PhysAddr) (h : RegistersWrittenBy (.faFree f) s u) :
    (free f u).Leaves (RegistersWrittenBy (.faFree f) s) := by
  rcases free_cases f u with ⟨-, e⟩ | ⟨-, -, e⟩ | ⟨-, -, ⟨-, e⟩ | ⟨-, e⟩⟩ <;> rw [e]
  · exact h
  · trivial
  · exact { h with freeHead := .inr (.inr ⟨f, rfl⟩) }
  · exact h.withLock true

theorem requireRoot_leaves (h : RegistersWrittenBy i s u) : (requireRoot u).Leaves (RegistersWrittenBy i s) := by
  unfold requireRoot; split <;> exact h

theorem findL1_leaves (v : VirtAddr) (h : RegistersWrittenBy i s u) :
    (findL1 v u).Leaves (RegistersWrittenBy i s) := by
  rcases findL1_cases v u with e | e <;> rw [e] <;> exact h

/-- Every command is a procedure with this frame, ended by its response or in the fatal state. -/
theorem exists_procedure (i : Instr) (s : State) :
    ∃ e : Eff Response, exec i s = e.finish ∧ e.Leaves (RegistersWrittenBy i s) := by
  have h := refl i s
  by_cases hp : isPure i = true
  · obtain ⟨r0, r1, he⟩ := exec_pure hp
    exact ⟨.done ⟨.ok, r0, r1⟩ s, he s, h⟩
  cases i with
  | faInit f =>
    refine ⟨_, rfl, ?_⟩
    unfold lockAcquire
    split
    · exact h
    · split
      · trivial
      · exact { h with heapTop := .inr (.inr ⟨f, rfl⟩), base := .inr ⟨f, rfl⟩ }
  | faAlloc =>
    refine ⟨_, rfl, Eff.leaves_bind (alloc_leaves rfl s h) fun f u _ h => ?_⟩
    cases f <;> exact h
  | faFree f => exact ⟨_, rfl, Eff.leaves_bind (free_leaves f h) fun _ _ _ h => h⟩
  | ptCreate =>
    refine ⟨_, rfl, Eff.leaves_bind (alloc_leaves rfl s h) fun n u _ h => ?_⟩
    cases n with
    | none => exact h
    | some n =>
      exact Eff.leaves_bind (zeroFrame_leaves withMem n h) fun _ _ _ h => { h with root := .inr (.inl rfl) }
  | ptAttach r => exact ⟨.done ⟨.ok, 0, 0⟩ (s.withRoot r), rfl, { h with root := .inr (.inr ⟨r, rfl⟩) }⟩
  | ptMap v p f =>
    exact ⟨_, rfl, Eff.leaves_bind (requireRoot_leaves h) fun _ _ _ h =>
      Eff.leaves_bind (mapOne_leaves withMem (alloc_leaves rfl) v p f h) fun _ _ _ h => h⟩
  | ptUnmap v =>
    exact ⟨_, rfl, Eff.leaves_bind (requireRoot_leaves h) fun _ _ _ h =>
      Eff.leaves_bind (unmapOne_leaves withMem v h) fun _ _ _ h => h⟩
  | ptGetL1 v | ptRetrieve v =>
    exact ⟨_, rfl, Eff.leaves_bind (requireRoot_leaves h) fun _ _ _ h =>
      Eff.leaves_bind (findL1_leaves v h) fun a _ _ h => Eff.leaves_bind (memRead_leaves a h) fun _ _ _ h => h⟩
  | ptMapRegion v p n f =>
    exact ⟨_, rfl, Eff.leaves_bind (requireRoot_leaves h) fun _ _ _ h =>
      mapPages_leaves withMem (alloc_leaves rfl) v p f _ 0 h⟩
  | ptUnmapRegion v n =>
    exact ⟨_, rfl, Eff.leaves_bind (requireRoot_leaves h) fun _ _ _ h => unmapPages_leaves withMem v _ 0 h⟩
  | ptEnable =>
    exact ⟨_, rfl, Eff.leaves_bind (requireRoot_leaves h) fun _ _ _ h => { h with activeRoot := .inr rfl }⟩
  | _ => exact absurd rfl hp

end RegistersWrittenBy

/-- R72, R103: at a command's end `LOCK` is as it was, or clear. -/
theorem lock_kept_or_clear (s : State) : KeptByUpdates fun t => t.lock = s.lock ∨ t.lock = false where
  respond _ _ _ _ h := h
  raiseFatal _ _ _ := .inr rfl
  writeWord _ _ _ _ h := h
  zeroRange _ _ _ h := h
  initialised _ _ _ h := h
  withFreeHead _ _ _ h := h
  bump _ _ _ h := by rwa [State.withHeapTop_lock]
  withRoot _ _ h := h
  withActiveRoot _ _ h := h

/-- Settles O59: the procedure a command runs has the frame, and ending it writes the response alone, or also enters the
fatal state and says so in the response. -/
theorem registersAreWrittenByTheirCommandsOnly : Obligations.RegistersAreWrittenByTheirCommandsOnly := by
  intro i s t h
  have hlock := (lock_kept_or_clear s).of_exec (.inl rfl) h
  obtain ⟨e, he, hu⟩ := RegistersWrittenBy.exists_procedure i s
  rcases Eff.finish_eq_next.1 (he.symm.trans h) with ⟨r, u, rfl, rfl⟩ | ⟨c, u, rfl, rfl⟩
  · exact ⟨hu.freeHead, hu.heapTop, hu.base, hlock, hu.root, hu.activeRoot, .inl hu.fatal, hu.platform⟩
  · exact ⟨hu.freeHead, hu.heapTop, hu.base, hlock, hu.root, hu.activeRoot, .inr rfl, hu.platform⟩

end Sys2Proof.Machine

/-! ### What no command reads

A change of the state that touches nothing a procedure reads, and that commutes with what a procedure writes, commutes
with the procedure. The walker is gone through once, for every such change. -/

namespace Sys2Proof.Machine

variable {α β : Type} {g : State → State}

/-- The same ending, in the changed state. -/
def Eff.mapState (g : State → State) : Eff α → Eff α
  | .done a s => .done a (g s)
  | .raised c s => .raised c (g s)
  | .hung => .hung

/-- The procedure does the same from the changed state and leaves its own state changed alike. -/
def Blind (g : State → State) (p : State → Eff α) : Prop := ∀ s, p (g s) = (p s).mapState g

theorem Blind.done {f : State → State} (hf : ∀ s, f (g s) = g (f s)) (a : α) : Blind g fun s => .done a (f s) :=
  fun s => congrArg (Eff.done a) (hf s)

theorem Blind.pure (g : State → State) (a : α) : Blind g (.done a) := fun _ => rfl

theorem Blind.raised (g : State → State) (c : FatalCause) : Blind g (.raised c : State → Eff α) := fun _ => rfl

theorem Blind.bind {p : State → Eff α} {k : α → State → Eff β} (hp : Blind g p) (hk : ∀ a, Blind g (k a)) :
    Blind g fun s => (p s).bind k := by
  intro s
  change (p (g s)).bind k = ((p s).bind k).mapState g
  rw [hp s]
  cases p s with
  | done a u => exact hk a u
  | raised c u => rfl
  | hung => rfl

/-- A branch on what `g` leaves as it was. -/
theorem Blind.ite {c : State → Prop} [DecidablePred c] {p q : State → Eff α} (hc : ∀ s, c (g s) ↔ c s)
    (hp : Blind g p) (hq : Blind g q) : Blind g fun s => if c s then p s else q s := by
  intro s
  by_cases h : c s
  · simpa only [if_pos h, if_pos ((hc s).2 h)] using hp s
  · simpa only [if_neg h, if_neg (mt (hc s).1 h)] using hq s

/-- `p` may be given values of fields that `g` leaves as they were. -/
theorem Blind.of_field {γ : Type} {π : State → γ} {p : γ → State → Eff α} (hπ : ∀ s, π (g s) = π s)
    (hp : ∀ x, Blind g (p x)) : Blind g fun s => p (π s) s := by
  intro s
  change p (π (g s)) (g s) = _
  rw [hπ]
  exact hp _ s

/-- `g` leaves every field the procedures read as it was, and commutes with every write they make. -/
structure Unread (g : State → State) : Prop where
  params : ∀ s, (g s).params = s.params
  mem : ∀ s, (g s).mem = s.mem
  freeHead : ∀ s, (g s).freeHead = s.freeHead
  heapTop : ∀ s, (g s).heapTop = s.heapTop
  inited : ∀ s, (g s).inited = s.inited
  lock : ∀ s, (g s).lock = s.lock
  ptRoot : ∀ s, (g s).ptRoot = s.ptRoot
  ptValid : ∀ s, (g s).ptValid = s.ptValid
  withMem : ∀ s m, (g s).withMem m = g (s.withMem m)
  withFreeHead : ∀ s f, (g s).withFreeHead f = g (s.withFreeHead f)
  withHeapTop : ∀ s f, (g s).withHeapTop f = g (s.withHeapTop f)
  withLock : ∀ s b, (g s).withLock b = g (s.withLock b)
  withRoot : ∀ s r, (g s).withRoot r = g (s.withRoot r)

namespace Unread

/-! #### Memory access and the allocator -/

theorem inMemory_iff (hg : Unread g) (a : PhysAddr) (n : Nat) (s : State) :
    (g s).inMemory a n = true ↔ s.inMemory a n = true := by
  rw [State.inMemory_congr (hg.params s)]

theorem memRead_blind (hg : Unread g) (a : PhysAddr) : Blind g (memRead a) :=
  .ite (hg.inMemory_iff a 8) (.of_field (p := fun m => .done (m.readWord a)) hg.mem fun _ => .pure _ _) (.raised _ _)

theorem memWrite_blind (hg : Unread g) (a : PhysAddr) (w : Word) : Blind g (memWrite a w) :=
  .ite (hg.inMemory_iff a 8)
    (.of_field (p := fun m s => .done () (s.withMem (m.writeWord a w))) hg.mem fun _ => .done (hg.withMem · _) _)
    (.raised _ _)

theorem zeroFrame_blind (hg : Unread g) (f : PhysAddr) : Blind g (zeroFrame f) :=
  .ite (hg.inMemory_iff f _)
    (.of_field (p := fun m s => .done () (s.withMem (m.zeroRange f.val.toNat Config.frameSize))) hg.mem
      fun _ => .done (hg.withMem · _) _)
    (.raised _ _)

theorem lockAcquire_blind (hg : Unread g) : Blind g lockAcquire :=
  .ite (fun s => by rw [hg.lock]) (fun _ => rfl) (.done (hg.withLock · _) _)

theorem lockRelease_comm (hg : Unread g) (s : State) : lockRelease (g s) = g (lockRelease s) := hg.withLock s false

theorem allocPop_blind (hg : Unread g) : Blind g allocPop :=
  .of_field (p := fun f s => (memRead f s).bind fun next s' =>
    .done (some f) (lockRelease (s'.withFreeHead ⟨next⟩))) hg.freeHead fun f =>
      (hg.memRead_blind f).bind fun _ => .done (fun s => by rw [hg.withFreeHead, hg.lockRelease_comm]) _

theorem allocBump_blind (hg : Unread g) : Blind g allocBump :=
  .of_field (p := fun f s => (zeroFrame f (s.withHeapTop (f.add (BitVec.ofNat 64 Config.frameSize)))).bind
    fun _ s' => .done (some f) (lockRelease s')) hg.heapTop fun f =>
      .bind (fun s => by rw [hg.withHeapTop, hg.zeroFrame_blind]) fun _ => .done hg.lockRelease_comm _

theorem alloc_blind (hg : Unread g) : Blind g alloc :=
  .ite (fun s => by rw [hg.inited])
    (hg.lockAcquire_blind.bind fun _ => .ite (fun s => by rw [hg.freeHead]) hg.allocPop_blind <|
      .ite (fun s => by rw [State.heapExhausted_iff, State.heapExhausted_iff, hg.params, hg.heapTop])
        (.done hg.lockRelease_comm _) hg.allocBump_blind)
    (.raised _ _)

theorem free_blind (hg : Unread g) (f : PhysAddr) : Blind g (free f) :=
  .ite (fun s => by rw [hg.inited])
    (hg.lockAcquire_blind.bind fun _ =>
      .bind (.of_field (π := State.freeHead) hg.freeHead fun h => hg.memWrite_blind f h.val) fun _ =>
        .done (fun s => by rw [hg.withFreeHead, hg.lockRelease_comm]) _)
    (.raised _ _)

/-! #### The walker -/

theorem requireRoot_blind (hg : Unread g) : Blind g requireRoot :=
  .ite (fun s => by rw [hg.ptValid]) (.pure _ _) (.raised _ _)

theorem walk_blind (hg : Unread g) (v : VirtAddr) (ls : List Level) (t : PhysAddr) : Blind g (walk v ls t) := by
  induction ls generalizing t with
  | nil => exact .pure g t
  | cons l ls ih => exact (hg.memRead_blind _).bind fun _ => ih _

theorem findL1_blind (hg : Unread g) (v : VirtAddr) : Blind g (findL1 v) :=
  .bind (.of_field hg.ptRoot (hg.walk_blind v interiorLevels)) fun _ => .pure _ _

theorem unmapOne_blind (hg : Unread g) (v : VirtAddr) : Blind g (unmapOne v) :=
  (hg.findL1_blind v).bind fun _ => hg.memWrite_blind _ _

theorem unmapPages_blind (hg : Unread g) (v : VirtAddr) (n k : Nat) : Blind g (unmapPages v n k) := by
  induction n generalizing k with
  | zero => exact .pure g _
  | succ n ih => exact (hg.unmapOne_blind _).bind fun _ => ih _

theorem growTable_blind (hg : Unread g) (a : PhysAddr) : Blind g (growTable a) :=
  hg.alloc_blind.bind fun n =>
    match n with
    | none => .pure _ _
    | some n => (hg.zeroFrame_blind n).bind fun _ => (hg.memWrite_blind _ _).bind fun _ => .pure _ _

theorem descendLevel_blind (hg : Unread g) (v : VirtAddr) (l : Level) (t : PhysAddr) : Blind g (descendLevel v l t) :=
  (hg.memRead_blind _).bind fun _ => .bind
    (.ite (fun _ => Iff.rfl) (hg.growTable_blind _) ((hg.memWrite_blind _ _).bind fun _ => .pure _ _))
    fun _ => .pure _ _

theorem descend_blind (hg : Unread g) (v : VirtAddr) (ls : List Level) (t : PhysAddr) : Blind g (descend v ls t) := by
  induction ls generalizing t with
  | nil => exact .pure g _
  | cons l ls ih =>
    refine (hg.descendLevel_blind v l t).bind fun t => ?_
    cases t with
    | none => exact .pure g _
    | some t => exact ih t

theorem mapOne_blind (hg : Unread g) (v : VirtAddr) (p : PhysAddr) (f : FlagWord) : Blind g (mapOne v p f) :=
  .bind (.of_field hg.ptRoot (hg.descend_blind v interiorLevels)) fun t =>
    match t with
    | none => .pure _ _
    | some _ => (hg.memWrite_blind _ _).bind fun _ => .pure _ _

theorem mapPages_blind (hg : Unread g) (v : VirtAddr) (p : PhysAddr) (f : FlagWord) (n k : Nat) :
    Blind g (mapPages v p f n k) := by
  induction n generalizing k with
  | zero => exact .pure g _
  | succ n ih => exact (hg.mapOne_blind _ _ _).bind fun _ => .ite (fun _ => Iff.rfl) (.pure g _) (ih _)

/-! #### The commands -/

/-- Every command runs a procedure blind to `g`, where `g` also commutes with the write of `HEAP_BASE` if the command is
`FA_INIT`, and of `ACTIVE_ROOT` if it is `PT_ENABLE`. -/
theorem exists_procedure (hg : Unread g) {i : Instr}
    (hinit : ∀ a, i = .faInit a → ∀ s, (g s).initialised a = g (s.initialised a))
    (henable : i = .ptEnable → ∀ s r, (g s).withActiveRoot r = g (s.withActiveRoot r)) :
    ∃ p : State → Eff Response, (∀ s, exec i s = (p s).finish) ∧ Blind g p := by
  by_cases hp : isPure i = true
  · obtain ⟨r0, r1, he⟩ := exec_pure hp
    exact ⟨.done ⟨.ok, r0, r1⟩, he, .pure _ _⟩
  cases i with
  | faInit f =>
    exact ⟨_, fun _ => rfl, .ite (fun s => by rw [hg.inited]) (.raised _ _) <|
      hg.lockAcquire_blind.bind fun _ => .done (fun s => by rw [hinit f rfl, hg.lockRelease_comm]) _⟩
  | faAlloc =>
    refine ⟨_, fun _ => rfl, hg.alloc_blind.bind fun f => ?_⟩
    cases f <;> exact .pure _ _
  | faFree f => exact ⟨_, fun _ => rfl, (hg.free_blind f).bind fun _ => .pure _ _⟩
  | ptCreate =>
    refine ⟨_, fun _ => rfl, hg.alloc_blind.bind fun n => ?_⟩
    cases n with
    | none => exact .pure _ _
    | some n => exact (hg.zeroFrame_blind n).bind fun _ => .done (hg.withRoot · n) _
  | ptAttach r => exact ⟨fun s => .done ⟨.ok, 0, 0⟩ (s.withRoot r), fun _ => rfl, .done (hg.withRoot · r) _⟩
  | ptMap v p f =>
    exact ⟨_, fun _ => rfl, hg.requireRoot_blind.bind fun _ => (hg.mapOne_blind v p f).bind fun _ => .pure _ _⟩
  | ptUnmap v =>
    exact ⟨_, fun _ => rfl, hg.requireRoot_blind.bind fun _ => (hg.unmapOne_blind v).bind fun _ => .pure _ _⟩
  | ptGetL1 v | ptRetrieve v =>
    exact ⟨_, fun _ => rfl, hg.requireRoot_blind.bind fun _ => (hg.findL1_blind v).bind fun a =>
      (hg.memRead_blind a).bind fun _ => .pure _ _⟩
  | ptMapRegion v p n f => exact ⟨_, fun _ => rfl, hg.requireRoot_blind.bind fun _ => hg.mapPages_blind v p f _ 0⟩
  | ptUnmapRegion v n => exact ⟨_, fun _ => rfl, hg.requireRoot_blind.bind fun _ => hg.unmapPages_blind v _ 0⟩
  | ptEnable =>
    exact ⟨_, fun _ => rfl, hg.requireRoot_blind.bind fun _ =>
      .of_field (p := fun r s => .done (⟨.ok, 0, 0⟩ : Response) (s.withActiveRoot r)) hg.ptRoot fun r =>
        .done (henable rfl · r) _⟩
  | _ => exact absurd rfl hp

end Unread

/-! #### The response, `ACTIVE_ROOT` and `HEAP_BASE` -/

/-- Another response in the port. -/
def State.withResponse (q : Option Response) (s : State) : State := { s with response := q }

theorem State.withResponse_unread (q : Option Response) : Unread (State.withResponse q) := by
  constructor <;> intros <;> rfl

/-- A command's end overwrites the response, so its earlier value is gone. -/
theorem Eff.finish_mapState_withResponse (q : Option Response) (e : Eff Response) :
    (e.mapState (State.withResponse q)).finish = e.finish := by
  cases e <;> rfl

/-- Settles O58: no procedure reads the response, and the end of the command overwrites it. -/
theorem earlierResponsesAreNeverRead : Obligations.EarlierResponsesAreNeverRead := by
  intro i s q
  obtain ⟨p, hexec, hblind⟩ := (State.withResponse_unread q).exists_procedure (i := i)
    (fun _ _ _ => rfl) (fun _ _ _ => rfl)
  calc exec i (s.withResponse q) = (p (s.withResponse q)).finish := hexec _
    _ = ((p s).mapState (State.withResponse q)).finish := by rw [hblind s]
    _ = (p s).finish := Eff.finish_mapState_withResponse q _
    _ = exec i s := (hexec s).symm

/-- Another translation root and another heap base. -/
def State.withRootAndBase (r b : PhysAddr) (s : State) : State := { s with activeRoot := r, heapBase := b }

theorem State.withRootAndBase_unread (r b : PhysAddr) : Unread (State.withRootAndBase r b) := by
  constructor <;> intros <;> rfl

theorem Eff.finish_mapState_withRootAndBase {e : Eff Response} {t : State} (r b : PhysAddr)
    (h : e.finish = .next t) : (e.mapState (State.withRootAndBase r b)).finish = .next (t.withRootAndBase r b) := by
  rcases Eff.finish_eq_next.1 h with ⟨_, _, rfl, rfl⟩ | ⟨_, _, rfl, rfl⟩ <;> rfl

/-- Settles O57: the registers are kept by O59, and no procedure but those of `PT_ENABLE` and `FA_INIT` tells their
values apart. -/
theorem activeRootAndHeapBaseAreNeverRead : Obligations.ActiveRootAndHeapBaseAreNeverRead := by
  intro i s t r b henable hinit h
  obtain ⟨-, -, hbase, -, -, hroot, -⟩ := registersAreWrittenByTheirCommandsOnly i s t h
  obtain ⟨p, hexec, hblind⟩ := (State.withRootAndBase_unread r b).exists_procedure
    (fun a ha => absurd ha (hinit a)) (fun hi => absurd hi henable)
  refine ⟨hroot.resolve_right henable, (hbase.resolve_right fun ⟨a, ha⟩ => hinit a ha).1, ?_⟩
  calc exec i (s.withRootAndBase r b) = (p (s.withRootAndBase r b)).finish := hexec _
    _ = ((p s).mapState (State.withRootAndBase r b)).finish := by rw [hblind s]
    _ = .next (t.withRootAndBase r b) := Eff.finish_mapState_withRootAndBase r b ((hexec s).symm.trans h)

end Sys2Proof.Machine

/-! ### Words and frames in memory -/

namespace Sys2Proof.Machine

/-! #### The word -/

theorem Memory.getD_readBytes (m : Memory) (a n : Nat) {i : Nat} (h : i < n) :
    (Memory.readBytes m a n).getD i 0 = Memory.read m (a + i) := by
  induction n generalizing a i with
  | zero => exact absurd h (Nat.not_lt_zero i)
  | succ n ih =>
    cases i with
    | zero => rfl
    | succ i =>
      rw [Memory.readBytes, List.getD_cons_succ, ih (a + 1) (by omega)]
      congr 1
      omega

/-- R22: byte `i` of the word at `a` is the byte of memory at `a + i`. -/
theorem Memory.byteOfWord_readWord (m : Memory) (a : PhysAddr) {i : Nat} (h : i < 8) :
    byteOfWord (m.readWord a) i = Memory.read m (a.val.toNat + i) := by
  apply BitVec.eq_of_getLsbD_eq
  intro j hj
  have hdiv : (8 * i + j) / 8 = i := by omega
  have hmod : (8 * i + j) % 8 = j := by omega
  rw [byteOfWord, BitVec.getLsbD_extractLsb', Memory.readWord, wordOfBytes_getLsbD _ _ (by omega), hdiv, hmod,
    Memory.getD_readBytes _ _ _ h, decide_eq_true hj, Bool.true_and]

/-- R22, R24: the bound of an access, said of its last byte. -/
theorem State.inMemory_succ_eq_true {s : State} {a : PhysAddr} {n : Nat} (hsize : a.val.toNat + n < s.params.memSize)
    (hwrap : a.val.toNat + n < 2 ^ 64) : s.inMemory a (n + 1) = true :=
  (s.inMemory_iff a (n + 1)).2 ⟨hsize, hwrap⟩

theorem State.inMemory_succ_eq_false {s : State} {a : PhysAddr} {n : Nat}
    (h : s.params.memSize ≤ a.val.toNat + n ∨ 2 ^ 64 ≤ a.val.toNat + n) : s.inMemory a (n + 1) = false := by
  rw [← Bool.not_eq_true, State.inMemory_iff]
  omega

/-- Settles O10: the word's bytes are memory's bytes, in both directions, and the bound is that of `inMemory`. -/
theorem wordAccessIsLittleEndianAndBounded : Obligations.WordAccessIsLittleEndianAndBounded := by
  intro a v s
  refine ⟨fun hsize hwrap => ?_, fun hout => ?_⟩
  · have hin : s.inMemory a 8 = true := State.inMemory_succ_eq_true hsize hwrap
    exact ⟨⟨_, memRead_inMemory hin, fun _ hi => Memory.byteOfWord_readWord _ _ hi⟩, _, memWrite_inMemory v hin,
      fun _ hi => Memory.read_writeWord_inside _ _ _ hi, fun _ hx => Memory.read_writeWord_outside _ _ _ hx⟩
  · have hin : s.inMemory a 8 = false := State.inMemory_succ_eq_false hout
    exact ⟨memRead_eq_raised.2 ⟨hin, rfl, rfl⟩, memWrite_eq_raised.2 ⟨hin, rfl, rfl⟩⟩

/-! #### The frame -/

/-- R25: the slots of a table whose frame does not wrap are at `t + 8 * i`. -/
theorem toNat_slot {t : PhysAddr} (h : t.val.toNat + 4095 < 2 ^ 64) (i : BitVec 9) :
    (slot t i).val.toNat = t.val.toNat + 8 * i.toNat := by
  have hi : i.toNat < 512 := i.isLt
  have hoff : (8 * i.setWidth 64 : Word).toNat = 8 * i.toNat := by
    rw [BitVec.toNat_mul, BitVec.toNat_setWidth, show (8 : Word).toNat = 8 from rfl]
    omega
  rw [slot, PhysAddr.add, BitVec.toNat_add, hoff]
  omega

theorem Memory.read_zeroRange_outside (m : Memory) {f : PhysAddr} {n x : Nat} (h : outside x f n) :
    Memory.read (m.zeroRange f.val.toNat n) x = Memory.read m x := by
  rw [Memory.read_zeroRange, if_neg fun ⟨hle, hlt⟩ => h.elim hle.not_gt hlt.not_ge]

/-- Settles O11: the frame is the range zeroed, and each of the 512 slots lies in it. -/
theorem zeroFrameClearsExactlyOneFrame : Obligations.ZeroFrameClearsExactlyOneFrame := by
  intro f s
  refine ⟨fun hsize hwrap => ?_, fun hout => ?_⟩
  · have hin : s.inMemory f Config.frameSize = true := State.inMemory_succ_eq_true hsize hwrap
    refine ⟨_, zeroFrame_inMemory hin, fun i hi => ?_,
      fun _ hx => Memory.read_zeroRange_outside _ hx, fun i => ?_⟩
    · rw [Memory.read_zeroRange, if_pos ⟨Nat.le_add_right _ _, Nat.add_lt_add_left hi _⟩]
    · have hi : i.toNat < 512 := i.isLt
      have hslot := toNat_slot hwrap i
      have hzero : (s.mem.zeroRange f.val.toNat Config.frameSize).readWord (slot f i) = 0 :=
        Memory.readWord_zeroRange_inside _ _ _ _ (by omega) (by rw [hslot, Config.frameSize]; omega)
      rw [hzero]
      rfl
  · exact zeroFrame_eq_raised.2 ⟨State.inMemory_succ_eq_false hout, rfl, rfl⟩

end Sys2Proof.Machine

/-! ### Freeing frame 0 -/

namespace Sys2Proof.Machine

/-- R68: `FA_FREE` of a frame whose first word lies in memory. -/
theorem execFaFree_inMemory {f : PhysAddr} {s : State} (hi : s.inited = true) (hl : s.lock = false)
    (hm : s.inMemory f 8 = true) :
    execFaFree f s = .next (((s.withFreeHead f).withMem (s.mem.writeWord f s.freeHead.val)).respond .ok 0 0) := by
  rcases free_cases f s with ⟨hi', -⟩ | ⟨-, hl', -⟩ | ⟨-, -, ⟨-, e⟩ | ⟨hm', -⟩⟩
  · exact absurd (hi.symm.trans hi') (by decide)
  · exact absurd (hl.symm.trans hl') (by decide)
  · rw [execFaFree, e]
    rfl
  · exact absurd (hm.symm.trans hm') (by decide)

/-- R66: `FA_ALLOC` with an empty list and a frame left on the bump path. -/
theorem execFaAlloc_bump {s : State} (hi : s.inited = true) (hl : s.lock = false) (hf : s.freeHead = freeNil)
    (hx : s.heapExhausted = false) (hm : s.inMemory s.heapTop Config.frameSize = true) :
    execFaAlloc s = .next (((s.withHeapTop (s.heapTop.add (BitVec.ofNat 64 Config.frameSize))).withMem
      (s.mem.zeroRange s.heapTop.val.toNat Config.frameSize)).respond .ok s.heapTop.val 0) := by
  rw [execFaAlloc, alloc_bump hi hl hf hx hm]
  rfl

/-- Settles O31: `FREE_HEAD` is the terminator after the push, whatever the list was, so `Alloc()` takes the bump path
at the cursor the free left alone. -/
theorem freeingFrameZeroLosesTheFreeList : Obligations.FreeingFrameZeroLosesTheFreeList := by
  intro s t hi hl hsize h
  have hzero : s.inMemory ⟨0⟩ 8 = true := (s.inMemory_iff _ _).2 ⟨by simpa using hsize, by decide⟩
  cases (execFaFree_inMemory hi hl hzero).symm.trans h
  exact ⟨⟨hi, hl, rfl⟩, rfl, fun hlimit hframe =>
    ⟨_, execFaAlloc_bump hi hl rfl (State.heapExhausted_eq_false.2 hlimit) hframe, rfl⟩⟩

end Sys2Proof.Machine

/-! ### Walks that come to a slot beyond memory -/

namespace Sys2Proof.Machine

/-! #### The read-only walk -/

/-- A read-only walk and the access `k` that ends it: an interior slot beyond memory stops the walk itself, the level-1
slot stops the access. -/
theorem findL1_bind_beyond {β : Type} {v : VirtAddr} {s : State} {l : Level} {k : PhysAddr → State → Eff β}
    (ha : ∀ l' ∈ l.above, s.inMemory (s.pathSlot v l') 8 = true) (hm : s.inMemory (s.pathSlot v l) 8 = false)
    (hk : ∀ a, s.inMemory a 8 = false → k a s = .raised .bus s) : (findL1 v s).bind k = .raised .bus s := by
  by_cases hl : l = .l1
  · subst hl
    rw [findL1_interior ha]
    exact hk _ hm
  · rw [findL1_beyond hl ha hm]
    rfl

theorem unmapOne_beyond {v : VirtAddr} {s : State} {l : Level}
    (ha : ∀ l' ∈ l.above, s.inMemory (s.pathSlot v l') 8 = true) (hm : s.inMemory (s.pathSlot v l) 8 = false) :
    unmapOne v s = .raised .bus s :=
  findL1_bind_beyond ha hm fun _ h => memWrite_eq_raised.2 ⟨h, rfl, rfl⟩

/-! #### The creating descent, by tables that exist -/

/-- R76 (b): the refresh adds present and writable. -/
theorem refreshTable_eq_or (e : Pte) : refreshTable e = e ||| 3 := by
  calc refreshTable e = e &&& addrMask ||| (e &&& flagMask ||| 1 ||| 2) &&& flagMask := rfl
    _ = e &&& addrMask ||| (e &&& flagMask ||| 3) &&& flagMask := by rw [BitVec.or_assoc _ 1 2]; rfl
    _ = e &&& addrMask ||| (e &&& flagMask ||| 3 &&& flagMask) := by
      rw [BitVec.and_or_distrib_right, BitVec.and_assoc, BitVec.and_self]
    _ = e &&& (addrMask ||| flagMask) ||| 3 &&& flagMask := by rw [← BitVec.or_assoc, BitVec.and_or_distrib_left]
    _ = e &&& BitVec.allOnes 64 ||| 3 := rfl
    _ = e ||| 3 := by rw [BitVec.and_allOnes]

theorem physAddr_or_three (e : Pte) : physAddr (e ||| 3) = physAddr e := by
  have hflags : 3 &&& addrMask = 0#64 := rfl
  rw [physAddr, physAddr, BitVec.and_or_distrib_right, hflags, BitVec.or_zero]

theorem pathTable_append (m : Memory) (v : VirtAddr) (ls : List Level) (l : Level) (t : PhysAddr) :
    pathTable m v (ls ++ [l]) t =
      physAddr (m.readWord (slot (pathTable m v ls t) (index v l))) := by
  induction ls generalizing t with
  | nil => rfl
  | cons _ _ ih => exact ih _

variable {v : VirtAddr} {s : State} {l l' : Level}

/-- `l'` is the level below `l`: its table is where the entry at `l` points. -/
theorem State.pathTableAt_below (h : l'.above = l.above ++ [l]) :
    s.pathTableAt v l' = physAddr (s.pathEntry v l) := by
  rw [State.pathTableAt, h, pathTable_append]
  rfl

theorem State.refreshedAbove_below (h : l'.above = l.above ++ [l]) :
    s.refreshedAbove v l' = (s.refreshedAbove v l).writeWord (s.pathSlot v l) (s.pathEntry v l ||| 3) := by
  rw [State.refreshedAbove, h, List.foldl_append]
  rfl

/-- Refreshing entries elsewhere leaves a word as it was. -/
theorem readWord_foldl_writeWord_apart {ls : List Level} {a : PhysAddr} {slotAt : Level → PhysAddr} {w : Level → Word}
    (h : ∀ l ∈ ls, apart (slotAt l) 8 a 8 = true) (m : Memory) :
    (ls.foldl (fun m l => m.writeWord (slotAt l) (w l)) m).readWord a = m.readWord a := by
  induction ls generalizing m with
  | nil => rfl
  | cons l ls ih =>
    rw [List.forall_mem_cons] at h
    obtain ⟨hl, hls⟩ := h
    rw [List.foldl_cons, ih hls, Memory.readWord_writeWord_apart]
    simpa [apart] using hl

/-- The entry at `l` is the one the descent finds there, after its refreshes above, where the slots share no byte. -/
theorem State.readWord_refreshedAbove (h : ∀ l' ∈ l.above, apart (s.pathSlot v l') 8 (s.pathSlot v l) 8 = true) :
    (s.refreshedAbove v l).readWord (s.pathSlot v l) = s.pathEntry v l :=
  readWord_foldl_writeWord_apart h _

/-- One level of the descent, by a table that exists: its entry joins the refreshed ones, and the table below is
entered. -/
theorem descendLevel_refreshedAbove (h : l'.above = l.above ++ [l]) (hm : s.inMemory (s.pathSlot v l) 8 = true)
    (hu : isUnused (s.pathEntry v l) = false)
    (hs : ∀ l' ∈ l.above, apart (s.pathSlot v l') 8 (s.pathSlot v l) 8 = true) :
    descendLevel v l (s.pathTableAt v l) (s.withMem (s.refreshedAbove v l)) =
      .done (some (s.pathTableAt v l')) (s.withMem (s.refreshedAbove v l')) := by
  have hread : (s.withMem (s.refreshedAbove v l)).mem.readWord (slot (s.pathTableAt v l) (index v l)) =
      s.pathEntry v l := State.readWord_refreshedAbove hs
  have hin : (s.withMem (s.refreshedAbove v l)).inMemory (slot (s.pathTableAt v l) (index v l)) 8 = true := hm
  rw [descendLevel_reuse hin (by rwa [hread]), hread, refreshTable_eq_or, physAddr_or_three,
    State.pathTableAt_below h, State.refreshedAbove_below h]
  rfl

theorem descend_cons_of_done {ls : List Level} {t t' : PhysAddr} {u : State}
    (h : descendLevel v l t s = .done (some t') u) : descend v (l :: ls) t s = descend v ls t' u := by
  rw [descend, h]
  rfl

theorem descend_cons_beyond {ls : List Level} {t : PhysAddr} (h : s.inMemory (slot t (index v l)) 8 = false) :
    descend v (l :: ls) t s = .raised .bus s := by
  rw [descend, descendLevel, memRead_eq_raised.2 ⟨h, rfl, rfl⟩]
  rfl

/-- The interior levels a walk has yet to pass when it is at a level's table. -/
def Level.interiorFrom : Level → List Level
  | .l4 => [.l4, .l3, .l2]
  | .l3 => [.l3, .l2]
  | .l2 => [.l2]
  | .l1 => []

/-- Induction down the levels, in the order a walk visits them. -/
theorem Level.walkInduction {P : Level → Prop} (top : P .l4)
    (below : ∀ l l' : Level, l'.above = l.above ++ [l] → l.interiorFrom = l :: l'.interiorFrom → P l → P l') :
    ∀ l, P l := by
  have h3 : P .l3 := below .l4 .l3 rfl rfl top
  have h2 : P .l2 := below .l3 .l2 rfl rfl h3
  have h1 : P .l1 := below .l2 .l1 rfl rfl h2
  rintro (_ | _ | _ | _) <;> assumption

/-- The creating descent comes to level `l` by tables that exist with the entries above refreshed and nothing else
changed (R76 (b)). -/
theorem descend_reached (v : VirtAddr) (s : State) (l : Level)
    (ha : ∀ l' ∈ l.above, s.inMemory (s.pathSlot v l') 8 = true) (hr : s.reached v l) (hs : s.slotsApart v l.above) :
    descend v interiorLevels s.ptRoot s =
      descend v l.interiorFrom (s.pathTableAt v l) (s.withMem (s.refreshedAbove v l)) := by
  induction l using Level.walkInduction with
  | top => rfl
  | below l l' habove hfrom ih =>
    rw [State.reached, habove] at hr
    rw [State.slotsApart, habove, List.pairwise_append] at hs
    rw [habove] at ha
    obtain ⟨hs, -, hsl⟩ := hs
    rw [List.forall_mem_append, List.forall_mem_singleton] at ha hr
    obtain ⟨ha, hal⟩ := ha
    obtain ⟨hr, hrl⟩ := hr
    have hlevel := descendLevel_refreshedAbove habove hal hrl fun a h => hsl a h l (List.mem_singleton_self l)
    rw [ih ha hr hs, hfrom, descend_cons_of_done hlevel]

/-- A map that comes by tables that exist to a slot beyond memory, at whichever level, stops there. -/
theorem mapOne_beyond (p : PhysAddr) (f : FlagWord)
    (ha : ∀ l' ∈ l.above, s.inMemory (s.pathSlot v l') 8 = true) (hm : s.inMemory (s.pathSlot v l) 8 = false)
    (hr : s.reached v l) (hs : s.slotsApart v l.above) :
    mapOne v p f s = .raised .bus (s.withMem (s.refreshedAbove v l)) := by
  have hout : (s.withMem (s.refreshedAbove v l)).inMemory (slot (s.pathTableAt v l) (index v l)) 8 = false := hm
  rw [mapOne, descend_reached v s l ha hr hs]
  cases l with
  | l1 =>
    have hwrite (w : Word) := memWrite_eq_raised (w := w).2 ⟨hout, rfl, rfl⟩
    simp only [Level.interiorFrom, descend, Eff.bind_done, hwrite, Eff.bind_raised]
  | l2 | l3 | l4 =>
    rw [Level.interiorFrom, descend_cons_beyond hout]
    rfl

/-! #### Regions -/

/-- A region of any size but 0 has a first page (R84, R85). -/
theorem pageCount_pos {size : Word} (h : size ≠ 0) : 0 < (pageCount size).toNat := by
  have hlt := size.isLt
  have hpos : size.toNat ≠ 0 := fun h0 => h (BitVec.eq_of_toNat_eq h0)
  have hlow : (size &&& 0xFFF).toNat = size.toNat % 4096 := Nat.and_two_pow_sub_one_eq_mod _ 12
  have hhigh : (size >>> 12).toNat = size.toNat / 4096 := by
    rw [BitVec.toNat_ushiftRight, Nat.shiftRight_eq_div_pow]
  have h0 : (0 : Word).toNat = 0 := rfl
  have h1 : (1 : Word).toNat = 1 := rfl
  rw [pageCount, BitVec.toNat_add, hhigh]
  split
  · next hz =>
    rw [hz] at hlow
    omega
  · omega

theorem VirtAddr.add_pageOffset_zero (v : VirtAddr) : v.add (pageOffset 0) = v := by
  simp [VirtAddr.add, pageOffset]

theorem PhysAddr.add_pageOffset_zero (p : PhysAddr) : p.add (pageOffset 0) = p := by
  simp [PhysAddr.add, pageOffset]

/-- A region command raises what the walk of its first page raises. -/
theorem unmapPages_raised {n : Nat} {c : FatalCause} {u : State} (hn : 0 < n) (h : unmapOne v s = .raised c u) :
    unmapPages v n 0 s = .raised c u := by
  obtain ⟨n, rfl⟩ := Nat.exists_eq_succ_of_ne_zero hn.ne'
  rw [unmapPages, VirtAddr.add_pageOffset_zero, h]
  rfl

theorem mapPages_raised {p : PhysAddr} {f : FlagWord} {n : Nat} {c : FatalCause} {u : State} (hn : 0 < n)
    (h : mapOne v p f s = .raised c u) : mapPages v p f n 0 s = .raised c u := by
  obtain ⟨n, rfl⟩ := Nat.exists_eq_succ_of_ne_zero hn.ne'
  rw [mapPages, VirtAddr.add_pageOffset_zero, PhysAddr.add_pageOffset_zero, h]
  rfl

/-- Settles O43: each command has its walk or its map raise `BUS` at that slot, the regions at their first page. -/
theorem walkBeyondMemoryIsABusError : Obligations.WalkBeyondMemoryIsABusError := by
  intro v p f size l s hroot hsize ha hm
  have hcount := pageCount_pos hsize
  refine ⟨fun i hi => ?_, fun hr hs i hi => ?_⟩
  · have hunmap := unmapOne_beyond ha hm
    have hlookup (k : Pte → PhysAddr → State → Eff Response) :
        ((findL1 v s).bind fun a s => (memRead a s).bind (k · a)) = .raised .bus s :=
      findL1_bind_beyond ha hm fun a h => by rw [memRead_eq_raised.2 ⟨h, rfl, rfl⟩]; rfl
    simp only [List.mem_cons, List.not_mem_nil, or_false] at hi
    rcases hi with rfl | rfl | rfl | rfl
    · rw [exec, execPtUnmap, requireRoot_valid hroot, Eff.bind_done, hunmap]
      rfl
    · rw [exec, execPtGetL1, requireRoot_valid hroot, Eff.bind_done, hlookup]
      rfl
    · rw [exec, execPtRetrieve, requireRoot_valid hroot, Eff.bind_done, hlookup]
      rfl
    · rw [exec, execPtUnmapRegion, requireRoot_valid hroot, Eff.bind_done, unmapPages_raised hcount hunmap]
      rfl
  · have hmap := mapOne_beyond p f ha hm hr hs
    simp only [List.mem_cons, List.not_mem_nil, or_false] at hi
    rcases hi with rfl | rfl
    · rw [exec, execPtMap, requireRoot_valid hroot, Eff.bind_done, hmap]
      rfl
    · rw [exec, execPtMapRegion, requireRoot_valid hroot, Eff.bind_done, mapPages_raised hcount hmap]
      rfl

end Sys2Proof.Machine

/-! ### The frame of memory

A byte that none of the ranges in `stores i s` covers keeps its value through every procedure the command runs. -/

namespace Sys2Proof.Machine

/-- Byte `x` of physical memory is `b`. -/
def ByteIs (x : Nat) (b : Byte) (u : State) : Prop := Memory.read u.mem x = b

/-- `x` is in none of the ranges. -/
def outsideAll (x : Nat) (rs : List (PhysAddr × Nat)) : Prop := ∀ r ∈ rs, outside x r.1 r.2

theorem outsideAll.mono {x : Nat} {rs rs' : List (PhysAddr × Nat)} (h : outsideAll x rs') (hsub : rs ⊆ rs') :
    outsideAll x rs := fun r hr => h r (hsub hr)

theorem outsideAll_singleton {x : Nat} {a : PhysAddr} {n : Nat} : outsideAll x [(a, n)] ↔ outside x a n :=
  List.forall_mem_singleton

/-! #### What the store lists hold -/

theorem allocStores_of_done {s u : State} {n : PhysAddr} (h : alloc s = .done (some n) u) :
    allocStores s = [(n, Config.frameSize)] := by
  simp only [allocStores, h]

section Descend

variable {v : VirtAddr} {l : Level} {ls : List Level} {t t' : PhysAddr} {s s' : State}

theorem slot_mem_descendStores : (slot t (index v l), 8) ∈ descendStores v (l :: ls) t s := by
  simp [descendStores]

theorem allocStores_subset_descendStores (hu : isUnused (s.mem.readWord (slot t (index v l))) = true) :
    allocStores s ⊆ descendStores v (l :: ls) t s := by
  intro r hr
  simp [descendStores, hu, hr]

theorem descendStores_subset_of_done (h : descendLevel v l t s = .done (some t') s') :
    descendStores v ls t' s' ⊆ descendStores v (l :: ls) t s := by
  intro r hr
  simp [descendStores, h, hr]

/-- The level-1 slot the descent leads to is among the bytes listed. -/
theorem slot_l1_mem_descendStores (h : descend v ls t s = .done (some t') s') :
    (slot t' (index v .l1), 8) ∈ descendStores v ls t s := by
  induction ls generalizing t s with
  | nil =>
    cases h
    exact List.mem_singleton_self _
  | cons l ls ih =>
    rw [descend] at h
    obtain ⟨a, u, hlevel, hrest⟩ := Eff.bind_eq_done.1 h
    cases a with
    | none => cases hrest
    | some a => exact descendStores_subset_of_done hlevel (ih hrest)

end Descend

variable {x : Nat} {b : Byte} {s : State}

/-! #### Memory access and the allocator -/

theorem ByteIs.memWrite_leaves (h : ByteIs x b s) {a : PhysAddr} (hx : outside x a 8) (w : Word) :
    (memWrite a w s).Leaves (ByteIs x b) := by
  unfold memWrite
  split
  · exact (Memory.read_writeWord_outside s.mem a w hx).trans h
  · exact h

theorem ByteIs.zeroFrame_leaves (h : ByteIs x b s) {f : PhysAddr} (hx : outside x f Config.frameSize) :
    (zeroFrame f s).Leaves (ByteIs x b) := by
  unfold zeroFrame
  split
  · exact (Memory.read_zeroRange_outside _ hx).trans h
  · exact h

/-- R66: the bump path alone stores, and to the frame it yields. -/
theorem ByteIs.alloc_leaves (h : ByteIs x b s) (hx : s.freeHead = freeNil → outsideAll x (allocStores s)) :
    (alloc s).Leaves (ByteIs x b) := by
  rcases alloc_cases s with ⟨-, e⟩ | ⟨-, -, e⟩ |
    ⟨-, -, ⟨-, -, e⟩ | ⟨-, -, e⟩ | ⟨-, -, e⟩ | ⟨hf, -, -, e⟩ | ⟨-, -, -, e⟩⟩ <;> rw [e]
  · exact h
  · trivial
  · exact h
  · exact h
  · exact h
  · have hout := hx hf
    rw [allocStores_of_done e, outsideAll_singleton] at hout
    exact (Memory.read_zeroRange_outside _ hout).trans h
  · rwa [Eff.leaves_raised, ByteIs, State.withHeapTop_mem]

/-- R68: `Free(f)` stores the link in the frame's first word. -/
theorem ByteIs.free_leaves (h : ByteIs x b s) {f : PhysAddr} (hx : outside x f 8) :
    (free f s).Leaves (ByteIs x b) := by
  rcases free_cases f s with ⟨-, e⟩ | ⟨-, -, e⟩ | ⟨-, -, ⟨-, e⟩ | ⟨-, e⟩⟩ <;> rw [e]
  · exact h
  · trivial
  · exact (Memory.read_writeWord_outside s.mem f _ hx).trans h
  · exact h

/-! #### The walker -/

theorem ByteIs.requireRoot_bind (h : ByteIs x b s) {k : Unit → State → Eff Response}
    (hk : (k () s).Leaves (ByteIs x b)) : ((requireRoot s).bind k).Leaves (ByteIs x b) := by
  unfold requireRoot
  split
  · exact hk
  · exact h

theorem ByteIs.findL1_leaves (h : ByteIs x b s) (v : VirtAddr) : (findL1 v s).Leaves (ByteIs x b) := by
  rcases findL1_cases v s with e | e <;> rw [e] <;> exact h

/-- R77: the slot cleared is the level-1 slot of the path. -/
theorem ByteIs.unmapOne_leaves (h : ByteIs x b s) {v : VirtAddr} (hx : outside x (s.pathSlot v .l1) 8) :
    (unmapOne v s).Leaves (ByteIs x b) := by
  unfold unmapOne
  rcases findL1_cases v s with e | e <;> rw [e]
  · exact h.memWrite_leaves hx _
  · exact h

theorem ByteIs.unmapPages_leaves (v : VirtAddr) (n k : Nat) (h : ByteIs x b s)
    (hx : outsideAll x (unmapPagesStores v n k s)) : (unmapPages v n k s).Leaves (ByteIs x b) := by
  induction n generalizing k s with
  | zero => exact h
  | succ n ih =>
    rw [unmapPagesStores, outsideAll, List.forall_mem_cons] at hx
    obtain ⟨hslot, hrest⟩ := hx
    refine Eff.leaves_bind (h.unmapOne_leaves hslot) fun _ u hu h => ?_
    rw [hu] at hrest
    exact ih (k + 1) h hrest

/-- R76: growing the tree zeroes the frame `Alloc()` yields and links it at the slot. -/
theorem ByteIs.growTable_leaves (h : ByteIs x b s) {a : PhysAddr} (hslot : outside x a 8)
    (hx : outsideAll x (allocStores s)) : (growTable a s).Leaves (ByteIs x b) := by
  refine Eff.leaves_bind (h.alloc_leaves fun _ => hx) fun n u hu h => ?_
  cases n with
  | none => exact h
  | some n =>
    rw [allocStores_of_done hu] at hx
    exact Eff.leaves_bind (h.zeroFrame_leaves (outsideAll_singleton.1 hx)) fun _ _ _ h =>
      Eff.leaves_bind (h.memWrite_leaves hslot _) fun _ _ _ h => h

theorem ByteIs.descendLevel_leaves (h : ByteIs x b s) {v : VirtAddr} {l : Level} {t : PhysAddr}
    (hslot : outside x (slot t (index v l)) 8)
    (hx : isUnused (s.mem.readWord (slot t (index v l))) = true → outsideAll x (allocStores s)) :
    (descendLevel v l t s).Leaves (ByteIs x b) := by
  refine Eff.leaves_bind (memRead_leaves _ h) fun e u hu h => Eff.leaves_bind ?_ fun _ _ _ h => h
  obtain ⟨-, rfl, rfl⟩ := memRead_eq_done.1 hu
  split
  · next hunused => exact h.growTable_leaves hslot (hx hunused)
  · exact Eff.leaves_bind (h.memWrite_leaves hslot _) fun _ _ _ h => h

theorem ByteIs.descend_leaves (v : VirtAddr) (ls : List Level) (t : PhysAddr) (h : ByteIs x b s)
    (hx : outsideAll x (descendStores v ls t s)) : (descend v ls t s).Leaves (ByteIs x b) := by
  induction ls generalizing t s with
  | nil => exact h
  | cons l ls ih =>
    have hlevel := h.descendLevel_leaves (hx _ slot_mem_descendStores) fun hu =>
      hx.mono (allocStores_subset_descendStores hu)
    refine Eff.leaves_bind hlevel fun t' u hu h => ?_
    cases t' with
    | none => exact h
    | some t' => exact ih t' h (hx.mono (descendStores_subset_of_done hu))

theorem ByteIs.mapOne_leaves (h : ByteIs x b s) {v : VirtAddr} (hx : outsideAll x (mapStores v s)) (p : PhysAddr)
    (f : FlagWord) : (mapOne v p f s).Leaves (ByteIs x b) := by
  refine Eff.leaves_bind (h.descend_leaves v _ _ hx) fun t u hu h => ?_
  cases t with
  | none => exact h
  | some t =>
    exact Eff.leaves_bind (h.memWrite_leaves (hx _ (slot_l1_mem_descendStores hu)) _) fun _ _ _ h => h

/-- R76: `MapOne` yields `OK` or `NONE`. -/
theorem status_of_mapOne_eq_done {v : VirtAddr} {p : PhysAddr} {f : FlagWord} {st : Status} {u : State}
    (h : mapOne v p f s = .done st u) : st = .none ∨ st = .ok := by
  rw [mapOne] at h
  obtain ⟨t, w, -, hrest⟩ := Eff.bind_eq_done.1 h
  cases t with
  | none =>
    cases hrest
    exact .inl rfl
  | some t =>
    obtain ⟨_, _, -, hdone⟩ := Eff.bind_eq_done.1 hrest
    cases hdone
    exact .inr rfl

theorem ByteIs.mapPages_leaves (v : VirtAddr) (p : PhysAddr) (f : FlagWord) (n k : Nat) (h : ByteIs x b s)
    (hx : outsideAll x (mapPagesStores v p f n k s)) : (mapPages v p f n k s).Leaves (ByteIs x b) := by
  induction n generalizing k s with
  | zero => exact h
  | succ n ih =>
    rw [mapPagesStores, outsideAll, List.forall_mem_append] at hx
    obtain ⟨hpage, hrest⟩ := hx
    refine Eff.leaves_bind (h.mapOne_leaves hpage _ f) fun st u hu h => ?_
    rcases status_of_mapOne_eq_done hu with rfl | rfl
    · exact h
    · rw [hu] at hrest
      exact ih (k + 1) h hrest

/-! #### The commands -/

/-- Every command is a procedure that leaves a byte outside its stores alone, ended by its response or in the fatal
state. -/
theorem ByteIs.exists_procedure (i : Instr) (h : ByteIs x b s) (hx : outsideAll x (stores i s)) :
    ∃ e : Eff Response, exec i s = e.finish ∧ e.Leaves (ByteIs x b) := by
  by_cases hp : isPure i = true
  · obtain ⟨r0, r1, he⟩ := exec_pure hp
    exact ⟨.done ⟨.ok, r0, r1⟩ s, he s, h⟩
  cases i with
  | faInit f =>
    refine ⟨_, rfl, ?_⟩
    unfold lockAcquire
    split
    · exact h
    · split
      · trivial
      · exact h
  | faAlloc =>
    refine ⟨_, rfl, Eff.leaves_bind (h.alloc_leaves fun hf => ?_) fun f u _ h => ?_⟩
    · rwa [stores, if_pos hf] at hx
    · cases f <;> exact h
  | faFree f => exact ⟨_, rfl, Eff.leaves_bind (h.free_leaves (outsideAll_singleton.1 hx)) fun _ _ _ h => h⟩
  | ptCreate =>
    refine ⟨_, rfl, Eff.leaves_bind (h.alloc_leaves fun _ => hx) fun n u hu h => ?_⟩
    cases n with
    | none => exact h
    | some n =>
      rw [stores, allocStores_of_done hu] at hx
      exact Eff.leaves_bind (h.zeroFrame_leaves (outsideAll_singleton.1 hx)) fun _ _ _ h => h
  | ptAttach r => exact ⟨.done ⟨.ok, 0, 0⟩ (s.withRoot r), rfl, h⟩
  | ptMap v p f =>
    exact ⟨_, rfl, h.requireRoot_bind (Eff.leaves_bind (h.mapOne_leaves hx p f) fun _ _ _ h => h)⟩
  | ptUnmap v =>
    exact ⟨_, rfl, h.requireRoot_bind
      (Eff.leaves_bind (h.unmapOne_leaves (outsideAll_singleton.1 hx)) fun _ _ _ h => h)⟩
  | ptGetL1 v | ptRetrieve v =>
    exact ⟨_, rfl, h.requireRoot_bind (Eff.leaves_bind (h.findL1_leaves v) fun a _ _ h =>
      Eff.leaves_bind (memRead_leaves a h) fun _ _ _ h => h)⟩
  | ptMapRegion v p n f => exact ⟨_, rfl, h.requireRoot_bind (h.mapPages_leaves v p f _ 0 hx)⟩
  | ptUnmapRegion v n => exact ⟨_, rfl, h.requireRoot_bind (h.unmapPages_leaves v _ 0 hx)⟩
  | ptEnable => exact ⟨_, rfl, h.requireRoot_bind h⟩
  | _ => exact absurd rfl hp

/-- Settles O60: the procedure a command runs leaves the byte alone, and no ending of a command writes memory. -/
theorem memoryIsUnchangedOutsideTheBytesStored : Obligations.MemoryIsUnchangedOutsideTheBytesStored := by
  intro i s t h x hx
  have hs : ByteIs x (Memory.read s.mem x) s := rfl
  obtain ⟨e, he, hleaves⟩ := hs.exists_procedure i hx
  exact Eff.finish_leaves hleaves (he.symm.trans h) (fun _ _ _ _ h => h) fun _ _ h => h

end Sys2Proof.Machine

/-! ### Packets, their bytes and the opcode map -/

namespace Sys2Proof

/-! #### A packet and its 40 bytes (R30) -/

theorem packetOfBytes_bytesOfPacket (p : Packet) : packetOfBytes (bytesOfPacket p) = some p := by
  have hlen : (bytesOfPacket p).length = 40 := rfl
  rw [packetOfBytes, if_pos hlen]
  calc some (⟨wordOfBytes (bytesOfWord p.word0), wordOfBytes (bytesOfWord p.a0), wordOfBytes (bytesOfWord p.a1),
        wordOfBytes (bytesOfWord p.a2), wordOfBytes (bytesOfWord p.a3)⟩ : Packet)
    _ = some p := by simp only [Machine.wordOfBytes_bytesOfWord]

theorem decodeBytes_bytesOfPacket (p : Packet) : decodeBytes (bytesOfPacket p) = decodePacket p := by
  rw [decodeBytes, packetOfBytes_bytesOfPacket]

/-! #### Word 0 (R30, R33) -/

/-- Words 1 to 4 of a packet. -/
def Packet.operandWords (p : Packet) : List Word := [p.a0, p.a1, p.a2, p.a3]

/-- R30: the two fields of word 0 are the whole of it. -/
theorem Packet.word0_eq_setWidth_iff (p : Packet) (op : BitVec 8) :
    p.word0 = op.setWidth 64 ↔ p.rsvd = 0 ∧ p.opcode = op := by
  have hop := op.isLt
  have hw := p.word0.isLt
  simp only [Packet.rsvd, Packet.opcode, BitVec.toNat_eq, BitVec.extractLsb'_toNat, BitVec.toNat_setWidth,
    Nat.shiftRight_eq_div_pow, BitVec.ofNat_eq_ofNat, BitVec.toNat_ofNat]
  omega

@[simp] theorem Packet.rsvdZero_iff (p : Packet) : p.rsvdZero = true ↔ p.rsvd = 0 := beq_iff_eq

@[simp] theorem Packet.opcodeAssigned_iff (p : Packet) : p.opcodeAssigned = true ↔ p.opcode ∈ assignedOpcodes :=
  List.contains_iff_mem

theorem Packet.wellFormed_iff (p : Packet) : p.wellFormed = true ↔ p.rsvd = 0 ∧ p.opcode ∈ assignedOpcodes := by
  simp [Packet.wellFormed]

/-- R33: a packet is legal when its word 0 is a match value, an assigned opcode zero-extended. -/
theorem Packet.wellFormed_iff_word0_mem (p : Packet) :
    p.wellFormed = true ↔ p.word0 ∈ assignedOpcodes.map (BitVec.setWidth 64) := by
  rw [Packet.wellFormed_iff, List.mem_map]
  constructor
  · intro ⟨hr, hop⟩
    exact ⟨p.opcode, hop, ((p.word0_eq_setWidth_iff p.opcode).2 ⟨hr, rfl⟩).symm⟩
  · intro ⟨op, hmem, hw⟩
    obtain ⟨hr, rfl⟩ := (p.word0_eq_setWidth_iff op).1 hw.symm
    exact ⟨hr, hmem⟩

/-! #### What the decoder answers (R32) -/

/-- The opcode map, gone through once: an assigned opcode selects a command of that opcode, which takes the first
operand words it needs; any other opcode is rejected by name. -/
theorem decodeOpcode_cases (p : Packet) :
    (∃ i, decodeOpcode p = .command i ∧ p.opcode = i.opcode ∧ i.operands <+: p.operandWords) ∨
      (decodeOpcode p = .rejected (.unassignedOpcode p.opcode) ∧ p.opcode ∉ assignedOpcodes) := by
  unfold decodeOpcode
  split
  case h_26 => exact .inr ⟨rfl, by simp_all [assignedOpcodes]⟩
  all_goals exact .inl ⟨_, rfl, ‹_›, by simp [Instr.operands, Packet.operandWords]⟩

theorem Instr.opcode_mem_assignedOpcodes (i : Instr) : i.opcode ∈ assignedOpcodes := by
  cases i <;> simp [Instr.opcode, assignedOpcodes]

theorem decodeOpcode_eq_command_iff {p : Packet} {i : Instr} :
    decodeOpcode p = .command i ↔ p.opcode = i.opcode ∧ i.operands <+: p.operandWords := by
  constructor
  · intro h
    obtain ⟨j, hj, hop, hpre⟩ | ⟨hrej, -⟩ := decodeOpcode_cases p
    · obtain rfl : j = i := Decoded.command.inj (hj.symm.trans h)
      exact ⟨hop, hpre⟩
    · cases hrej.symm.trans h
  · intro ⟨hop, hpre⟩
    cases i <;> simp_all [decodeOpcode, Instr.opcode, Instr.operands, Packet.operandWords, VirtAddr.ext_iff,
      PhysAddr.ext_iff]

/-- R30, R32: a packet decodes to a command exactly when it has the command's word 0 and begins its operand words with
the operands the command reads. The words past those are free. -/
theorem decodePacket_eq_command_iff {p : Packet} {i : Instr} :
    decodePacket p = .command i ↔ p.word0 = (encode i).word0 ∧ i.operands <+: p.operandWords := by
  rw [encode, p.word0_eq_setWidth_iff, and_assoc, ← decodeOpcode_eq_command_iff, decodePacket]
  split <;> simp_all

/-- R33: the two checks are the only grounds on which the decoder rejects a packet. -/
theorem decodePacket_rejected_iff {p : Packet} : (∃ e, decodePacket p = .rejected e) ↔ p.wellFormed = false := by
  rw [← Bool.not_eq_true, Packet.wellFormed_iff, decodePacket]
  split
  · next hr =>
    obtain ⟨i, hi, hop, -⟩ | ⟨hrej, hop⟩ := decodeOpcode_cases p
    · simp_all [i.opcode_mem_assignedOpcodes]
    · simp [hrej, hop]
  · next hr => simp_all

/-! #### The encoder -/

theorem encodeLegal (i : Instr) : Laws.EncodeLegal.Statement i :=
  Laws.encodeLegal_of_opcode i i.opcode_mem_assignedOpcodes (by cases i <;> rfl)

/-- R33: what the encoder sends is legal. -/
theorem encode_wellFormed (i : Instr) : (encode i).wellFormed = true := by
  obtain ⟨hmem, hop, hr, -⟩ := encodeLegal i
  exact (encode i).wellFormed_iff.2 ⟨hr, hop ▸ hmem⟩

theorem decodePacket_encode (i : Instr) : decodePacket (encode i) = .command i := by
  obtain ⟨-, -, -, hwords⟩ := encodeLegal i
  exact decodePacket_eq_command_iff.2 ⟨rfl, _, hwords.symm⟩

/-- Settles O1: the bytes give the packet back, and the decoder picks the command by the packet's words. -/
theorem decodingEncodedBytesGivesTheCommandBack : Obligations.DecodingEncodedBytesGivesTheCommandBack := fun i =>
  ⟨(decodeBytes_bytesOfPacket (encode i)).trans (decodePacket_encode i), encode_wellFormed i⟩

/-- Settles O2: one direction of what it takes to decode to a command. -/
theorem decodedCommandHasThePacketsWords : Obligations.DecodedCommandHasThePacketsWords := fun _ _ =>
  decodePacket_eq_command_iff.1

/-- Settles O4, by running the decoder on each packet. -/
theorem sampleWordsDecode : Obligations.SampleWordsDecode := by
  refine ⟨?_, ?_, ?_, ?_, ?_, ?_⟩ <;> decide

end Sys2Proof

/-! ### One step: the packet at the front of the queue -/

namespace Sys2Proof.Machine

variable {s : State} {p : Packet} {rest : List HostAction}

/-! #### The queue (R12) -/

theorem step_of_inbox_nil (h : s.inbox = []) : step s = .next s := by
  simp [step, runNext, h]

theorem step_of_inbox_cons {act : HostAction} (h : s.inbox = act :: rest) :
    step s = perform act (s.withInbox rest) := by
  simp [step, runNext, h]

/-! #### The three answers to a packet (R36) -/

theorem processPacket_of_fatal (h : s.fatal = true) : processPacket p s = .next s.respondFatal := by
  simp [processPacket, h]

theorem processPacket_of_command {i : Instr} (hf : s.fatal = false) (h : decodePacket p = .command i) :
    processPacket p s = exec i s := by
  simp [processPacket, hf, h]

theorem processPacket_of_rejected {e : DecodeError} (hf : s.fatal = false) (h : decodePacket p = .rejected e) :
    processPacket p s = .next (s.respond .illegal 0 0) := by
  simp [processPacket, hf, h]

/-- Settles O3: the 25 words are the assigned opcodes zero-extended, and a step answers a rejected packet alone. -/
theorem packetIsIllegalExactlyOutsideTheOpcodeMap : Obligations.PacketIsIllegalExactlyOutsideTheOpcodeMap := by
  intro p
  constructor
  · rw [decodePacket_rejected_iff, ← Bool.not_eq_true, p.wellFormed_iff_word0_mem]
    rfl
  · intro s rest hs hf ⟨_, he⟩
    exact (step_of_inbox_cons hs).trans (processPacket_of_rejected hf he)

/-- Settles O5: the packet comes off the queue and, outside the fatal state, is processed as what it decodes to. -/
theorem stepRunsTheDecodedCommand : Obligations.StepRunsTheDecodedCommand :=
  ⟨fun _ _ _ _ hs hf hi => (step_of_inbox_cons hs).trans (processPacket_of_command hf hi),
    fun _ => step_of_inbox_nil⟩

/-! #### The fatal state (R103) -/

/-- Of the host's actions only a reset event can touch the fatal state: a packet is answered and nothing else, and a
write reaches memory alone. -/
theorem perform_keeps_fatal {act : HostAction} {t : State} (hf : s.fatal = true) (hact : act ≠ .reset)
    (h : perform act s = .next t) : t.fatal = true ∧ t.fatalCause = s.fatalCause := by
  cases act with
  | command p =>
    obtain rfl : s.respondFatal = t := Host.Outcome.next.inj ((processPacket_of_fatal hf).symm.trans h)
    exact ⟨hf, rfl⟩
  | write a bs =>
    simp only [perform, hostWrite] at h
    split at h
    · cases h
      exact ⟨hf, rfl⟩
    · cases h
  | reset => exact absurd rfl hact

/-- Settles O6: each action but a reset event keeps the fatal state, and with no action nothing changes. -/
theorem fatalStateIsStickyUntilReset : Obligations.FatalStateIsStickyUntilReset := by
  intro s hf
  refine ⟨fun p rest hs => (step_of_inbox_cons hs).trans (processPacket_of_fatal hf), fun t ht hreset => ?_⟩
  cases hs : s.inbox with
  | nil =>
    obtain rfl : s = t := Host.Outcome.next.inj ((step_of_inbox_nil hs).symm.trans ht)
    exact ⟨hf, rfl⟩
  | cons act rest =>
    have hact : act ≠ .reset := fun h => hreset rest (h ▸ hs)
    exact perform_keeps_fatal (s := s.withInbox rest) hf hact ((step_of_inbox_cons hs).symm.trans ht)

end Sys2Proof.Machine

/-! ### Address types -/

namespace Sys2Proof.Machine

variable {v w : VirtAddr}

/-! #### The fields of a virtual address (R37, R39, R44) -/

/-- R37's formula. -/
theorem setWidth_index (v : VirtAddr) (l : Level) : (index v l).setWidth 64 = (v.val >>> l.shift) &&& 0x1FF := by
  have hmask : ((v.val >>> l.shift) &&& 0x1FF).toNat = (v.val.toNat >>> l.shift) % 2 ^ 9 := by
    rw [BitVec.toNat_and, BitVec.toNat_ushiftRight]
    exact Nat.and_two_pow_sub_one_eq_mod _ 9
  apply BitVec.eq_of_toNat_eq
  rw [hmask, index, BitVec.toNat_setWidth, BitVec.extractLsb'_toNat]
  omega

/-- The bits of a virtual address that a level's index is taken from. -/
def Level.field (l : Level) : Word := (0x1FF : Word) <<< l.shift

/-- An index put back at its bits is the address in that field. -/
theorem index_shiftLeft (v : VirtAddr) (l : Level) : (index v l).setWidth 64 <<< l.shift = v.val &&& l.field := by
  rw [setWidth_index, BitVec.shiftLeft_and_distrib, BitVec.shiftLeft_ushiftRight, BitVec.and_assoc,
    ← BitVec.shiftLeft_and_distrib, BitVec.allOnes_and, Level.field]

/-- The four index fields, and the offset's. -/
def virtAddrFields : List Word := [Level.l4.field, Level.l3.field, Level.l2.field, Level.l1.field, 0xFFF]

theorem virtAddrFields_disjoint : virtAddrFields.Pairwise fun m n => m &&& n = 0 := by decide

theorem or_fields_eq_low48 :
    Level.l4.field ||| Level.l3.field ||| Level.l2.field ||| Level.l1.field ||| 0xFFF = 0xFFFFFFFFFFFF := by decide

/-- The indices and the offset, each put back at its bits, are the address in the five fields. -/
theorem parts_eq_map_fields (v : VirtAddr) :
    [(index v .l4).setWidth 64 <<< 39, (index v .l3).setWidth 64 <<< 30, (index v .l2).setWidth 64 <<< 21,
      (index v .l1).setWidth 64 <<< 12, offset v] = virtAddrFields.map (v.val &&& ·) := by
  rw [virtAddrFields, List.map_cons, List.map_cons, List.map_cons, List.map_cons, List.map_singleton,
    ← index_shiftLeft, ← index_shiftLeft, ← index_shiftLeft, ← index_shiftLeft]
  rfl

/-- R44's formula. -/
theorem and_low48_eq_parts (v : VirtAddr) :
    v.val &&& (0xFFFFFFFFFFFF : Word) =
      ((index v .l4).setWidth 64 <<< 39) ||| ((index v .l3).setWidth 64 <<< 30) ||| ((index v .l2).setWidth 64 <<< 21)
        ||| ((index v .l1).setWidth 64 <<< 12) ||| offset v := by
  rw [← or_fields_eq_low48]
  simp only [BitVec.and_or_distrib_left, ← index_shiftLeft]
  rfl

/-- Settles O14: the parts are the address in disjoint fields whose union is bits 47 to 0. -/
theorem indicesAndOffsetTileTheLow48Bits : Obligations.IndicesAndOffsetTileTheLow48Bits := by
  intro v
  refine ⟨?disjoint, and_low48_eq_parts v, fun w hindex hoffset => ?determined⟩
  case disjoint =>
    rw [parts_eq_map_fields, List.pairwise_map]
    refine virtAddrFields_disjoint.imp fun {m n} h => ?_
    calc v.val &&& m &&& (v.val &&& n)
      _ = v.val &&& v.val &&& (m &&& n) := by ac_rfl
      _ = 0 := by rw [h]; exact BitVec.and_zero
  case determined =>
    rw [and_low48_eq_parts v, and_low48_eq_parts w, hindex, hindex, hindex, hindex, hoffset]

/-! #### Addresses that agree in some bits (R45) -/

/-- Addresses that agree under a mask that covers every index field have the same indices. -/
theorem index_congr (m : Word) (hm : ∀ l, index ⟨m⟩ l = BitVec.allOnes 9) (h : v.val &&& m = w.val &&& m) :
    index v = index w := by
  have index_masked (u : VirtAddr) (l : Level) : index u l = index ⟨u.val &&& m⟩ l := by
    calc index u l
      _ = index u l &&& index ⟨m⟩ l := by rw [hm, BitVec.and_allOnes]
      _ = index ⟨u.val &&& m⟩ l := BitVec.extractLsb'_and.symm
  funext l
  rw [index_masked v, index_masked w, h]

/-- Two virtual addresses agree in bits 47 to 0. -/
def SameLow48 (v w : VirtAddr) : Prop := v.val &&& 0xFFFFFFFFFFFF = w.val &&& 0xFFFFFFFFFFFF

theorem sameLow48_iff_mod : SameLow48 v w ↔ v.val.toNat % 2 ^ 48 = w.val.toNat % 2 ^ 48 := by
  have hmask (u : VirtAddr) : (u.val &&& 0xFFFFFFFFFFFF).toNat = u.val.toNat % 2 ^ 48 :=
    Nat.and_two_pow_sub_one_eq_mod _ 48
  rw [SameLow48, BitVec.toNat_eq, hmask, hmask]

theorem SameLow48.index_eq (h : SameLow48 v w) : index v = index w :=
  index_congr 0xFFFFFFFFFFFF (fun l => by cases l <;> decide) h

theorem SameLow48.offset_eq (h : SameLow48 v w) : offset v = offset w := by
  have offset_masked (u : VirtAddr) : offset u = (u.val &&& 0xFFFFFFFFFFFF) &&& 0xFFF := by
    rw [BitVec.and_assoc]
    rfl
  rw [offset_masked v, offset_masked w, h]

/-- A sum's low bits depend on no higher bit of what is added. -/
theorem SameLow48.add (h : SameLow48 v w) (off : Word) : SameLow48 (v.add off) (w.add off) := by
  rw [sameLow48_iff_mod] at h ⊢
  rw [VirtAddr.add, VirtAddr.add, BitVec.toNat_add, BitVec.toNat_add]
  omega

/-! #### The walker reads nothing of a virtual address but its indices (R76, R77) -/

section SameIndices

variable (h : index v = index w)
include h

theorem walk_congr (ls : List Level) : walk v ls = walk w ls := by
  induction ls with
  | nil => rfl
  | cons l ls ih =>
    funext t s
    rw [walk, walk, h, ih]

theorem findL1_congr : findL1 v = findL1 w := by
  funext s
  rw [findL1, findL1, h, walk_congr h]

theorem unmapOne_congr : unmapOne v = unmapOne w := by
  funext s
  rw [unmapOne, unmapOne, findL1_congr h]

theorem descendLevel_congr : descendLevel v = descendLevel w := by
  funext l t s
  rw [descendLevel, descendLevel, h]

theorem descend_congr (ls : List Level) : descend v ls = descend w ls := by
  induction ls with
  | nil => rfl
  | cons l ls ih =>
    funext t s
    rw [descend, descend, descendLevel_congr h, ih]

theorem mapOne_congr : mapOne v = mapOne w := by
  funext p f s
  rw [mapOne, mapOne, h, descend_congr h]

end SameIndices

/-! #### Regions whose first addresses agree in bits 47 to 0 (R84, R85) -/

theorem SameLow48.mapPages_eq (h : SameLow48 v w) (p : PhysAddr) (f : FlagWord) (n k : Nat) :
    mapPages v p f n k = mapPages w p f n k := by
  induction n generalizing k with
  | zero => rfl
  | succ n ih =>
    funext s
    rw [mapPages, mapPages, mapOne_congr (h.add _).index_eq, ih]

theorem SameLow48.unmapPages_eq (h : SameLow48 v w) (n k : Nat) : unmapPages v n k = unmapPages w n k := by
  induction n generalizing k with
  | zero => rfl
  | succ n ih =>
    funext s
    rw [unmapPages, unmapPages, unmapOne_congr (h.add _).index_eq, ih]

/-- Settles O15: the two addresses have the same indices and offset, and so has each page of the two regions. -/
theorem topBitsOfAVirtualAddressAreIgnored : Obligations.TopBitsOfAVirtualAddressAreIgnored := by
  intro v w l p size f s hlow
  have h : SameLow48 v w := hlow
  have hfind := findL1_congr h.index_eq
  refine ⟨?vaIndex, ?vaOffset, ?ptMap, ?ptUnmap, ?ptGetL1, ?ptRetrieve, ?ptMapRegion, ?ptUnmapRegion⟩
  case vaIndex => simp only [exec, execVaIndex, h.index_eq]
  case vaOffset => simp only [exec, execVaOffset, h.offset_eq]
  case ptMap => simp only [exec, execPtMap, mapOne_congr h.index_eq]
  case ptUnmap => simp only [exec, execPtUnmap, unmapOne_congr h.index_eq]
  case ptGetL1 => simp only [exec, execPtGetL1, hfind]
  case ptRetrieve => simp only [exec, execPtRetrieve, hfind]
  case ptMapRegion => simp only [exec, execPtMapRegion, h.mapPages_eq]
  case ptUnmapRegion => simp only [exec, execPtUnmapRegion, h.unmapPages_eq]

/-! #### The four commands (R38, R40, R42, R43) -/

theorem levelOfWord_eq_none {x : Word} (h1 : x ≠ 1) (h2 : x ≠ 2) (h3 : x ≠ 3) (h4 : x ≠ 4) : levelOfWord x = none := by
  rw [levelOfWord, if_neg h1, if_neg h2, if_neg h3, if_neg h4]

theorem exec_vaIndex_of_level {x : Word} {l : Level} (h : levelOfWord x = some l) (v : VirtAddr) (s : State) :
    exec (.vaIndex v x) s = .next (s.respond .ok ((v.val >>> l.shift) &&& 0x1FF) 0) := by
  simp only [exec, execVaIndex, h, answerOk, setWidth_index]

theorem exec_vaIndex_of_no_level {x : Word} (h : levelOfWord x = none) (v : VirtAddr) (s : State) :
    exec (.vaIndex v x) s = .next (s.respond .ok Config.indexSentinel 0) := by
  simp only [exec, execVaIndex, h, answerOk]

/-- Settles O12: `VA_INDEX` by whether its operand names a level, `VA_OFFSET` by definition. -/
theorem virtualAddressCommandsReturnTheirField : Obligations.VirtualAddressCommandsReturnTheirField :=
  ⟨fun _ _ _ _ => ⟨decodePacket_eq_command_iff.2 ⟨rfl, _, rfl⟩, decodePacket_eq_command_iff.2 ⟨rfl, _, rfl⟩⟩,
    fun v s => ⟨exec_vaIndex_of_level (l := .l4) rfl v s, exec_vaIndex_of_level (l := .l3) rfl v s,
      exec_vaIndex_of_level (l := .l2) rfl v s, exec_vaIndex_of_level (l := .l1) rfl v s,
      fun _ h1 h2 h3 h4 => exec_vaIndex_of_no_level (levelOfWord_eq_none h1 h2 h3 h4) v s, rfl⟩⟩

theorem exec_addrAdd (a b : Word) (s : State) :
    exec (.addrAdd a b) s = .next (s.respond .ok (BitVec.ofNat 64 ((a.toNat + b.toNat) % 2 ^ 64)) 0) := by
  have hsum : a + b = BitVec.ofNat 64 ((a.toNat + b.toNat) % 2 ^ 64) := by
    rw [← BitVec.toNat_add, BitVec.ofNat_toNat, BitVec.setWidth_eq]
  rw [← hsum]
  rfl

theorem exec_addrSub (a b : Word) (s : State) :
    exec (.addrSub a b) s = .next (s.respond .ok (BitVec.ofNat 64 ((a.toNat + 2 ^ 64 - b.toNat) % 2 ^ 64)) 0) := by
  have hcomm : a.toNat + 2 ^ 64 - b.toNat = 2 ^ 64 - b.toNat + a.toNat := by omega
  have hdiff : a - b = BitVec.ofNat 64 ((a.toNat + 2 ^ 64 - b.toNat) % 2 ^ 64) := by
    rw [hcomm, ← BitVec.toNat_sub, BitVec.ofNat_toNat, BitVec.setWidth_eq]
  rw [← hdiff]
  rfl

/-- Settles O13: each result is that of the unbounded integers modulo 2^64. -/
theorem addressArithmeticIsModulo2To64 : Obligations.AddressArithmeticIsModulo2To64 :=
  ⟨fun _ _ _ _ => ⟨decodePacket_eq_command_iff.2 ⟨rfl, _, rfl⟩, decodePacket_eq_command_iff.2 ⟨rfl, _, rfl⟩⟩,
    fun a b s => ⟨exec_addrAdd a b s, exec_addrSub a b s⟩⟩

end Sys2Proof.Machine

/-! ### Page-table entries -/

namespace Sys2Proof.Machine

/-! #### The two sides of an entry (R48, R49)

The masks split a word in two, so what is put in on one side is taken out again with nothing of the other side. -/

theorem addrMask_and_flagMask : addrMask &&& flagMask = 0 := by decide

theorem addrMask_or_flagMask : addrMask ||| flagMask = BitVec.allOnes 64 := by decide

section Masks

variable {w : Nat} {m n x : BitVec w}

/-- A word with no bit outside a mask is unchanged by it. -/
theorem and_eq_self_of_and_not_eq_zero (h : x &&& ~~~m = 0#w) : x &&& m = x := by
  calc x &&& m
    _ = x &&& m ||| x &&& ~~~m := by rw [h, BitVec.or_zero]
    _ = x &&& (m ||| ~~~m) := BitVec.and_or_distrib_left.symm
    _ = x := by rw [BitVec.or_not_self, BitVec.and_allOnes]

/-- Of a word merged under disjoint masks, each mask takes out its own side. -/
theorem merge_and_left (h : m &&& n = 0#w) (x y : BitVec w) : (x &&& m ||| y &&& n) &&& m = x &&& m := by
  rw [BitVec.and_or_distrib_right, BitVec.and_assoc, BitVec.and_self, BitVec.and_assoc, BitVec.and_comm n m, h,
    BitVec.and_zero, BitVec.or_zero]

theorem merge_and_right (h : m &&& n = 0#w) (x y : BitVec w) : (x &&& m ||| y &&& n) &&& n = y &&& n := by
  rw [BitVec.or_comm, merge_and_left ((BitVec.and_comm n m).trans h)]

end Masks

theorem physAddr_or_flagsOf (e : Pte) : (physAddr e).val ||| flagsOf e = e := by
  rw [physAddr, flagsOf, ← BitVec.and_or_distrib_left, addrMask_or_flagMask, BitVec.and_allOnes]

theorem physAddr_and_flagsOf (e : Pte) : (physAddr e).val &&& flagsOf e = 0 := by
  calc e &&& addrMask &&& (e &&& flagMask)
    _ = e &&& e &&& (addrMask &&& flagMask) := by ac_rfl
    _ = 0 := by rw [addrMask_and_flagMask]; exact BitVec.and_zero

/-! #### Every constructor and setter is `newPageEntry` (R50 to R52) -/

theorem newTableEntry_eq (p : PhysAddr) : newTableEntry p = newPageEntry p 3 := rfl

theorem setFlags_eq (e : Pte) (f : FlagWord) : setFlags e f = newPageEntry ⟨e⟩ f := rfl

theorem setPhysAddr_eq (e : Pte) (p : PhysAddr) : setPhysAddr e p = newPageEntry p e := BitVec.or_comm _ _

/-- The address side of an entry is that of the address operand, and no flag operand shows in it. -/
theorem physAddr_newPageEntry (p : PhysAddr) (f : FlagWord) : physAddr (newPageEntry p f) = physAddr p.val :=
  congrArg PhysAddr.mk (merge_and_left addrMask_and_flagMask _ _)

/-- The flag side of an entry is that of the flags operand, and no address operand shows in it. -/
theorem flagsOf_newPageEntry (p : PhysAddr) (f : FlagWord) : flagsOf (newPageEntry p f) = flagsOf f :=
  merge_and_right addrMask_and_flagMask _ _

theorem physAddr_eq_self {p : PhysAddr} (h : p.val &&& ~~~addrMask = 0) : physAddr p.val = p :=
  PhysAddr.ext (and_eq_self_of_and_not_eq_zero h)

theorem flagsOf_eq_self {f : FlagWord} (h : f &&& ~~~flagMask = 0) : flagsOf f = f :=
  and_eq_self_of_and_not_eq_zero h

/-- Settles O19: every constructor and setter is `newPageEntry`, whose sides are those of its two operands. -/
theorem entryPartsRoundTrip : Obligations.EntryPartsRoundTrip := by
  refine ⟨fun p f hp hf => ⟨?address, ?flags⟩,
    fun p f => ⟨?maskedAddress, flagsOf_newPageEntry p f, newTableEntry_eq p⟩,
    fun e p f => ⟨(physAddr_or_flagsOf e).symm, physAddr_and_flagsOf e, ?keptAddress, ?keptFlags, ?newFlags,
      ?newAddress⟩⟩
  case address => rw [physAddr_newPageEntry, physAddr_eq_self hp]
  case flags => rw [flagsOf_newPageEntry, flagsOf_eq_self hf]
  case maskedAddress => rw [physAddr_newPageEntry]; rfl
  case keptAddress => rw [setFlags_eq, physAddr_newPageEntry]
  case keptFlags => rw [setPhysAddr_eq, flagsOf_newPageEntry]
  case newFlags => rw [setFlags_eq, flagsOf_newPageEntry]; rfl
  case newAddress => rw [setPhysAddr_eq, physAddr_newPageEntry]; rfl

/-! #### The nine commands (R55 to R63) -/

theorem boolWord_isUnused (e : Pte) : boolWord (isUnused e) = if e = 0 then 1 else 0 := by
  simp only [boolWord, isUnused, beq_iff_eq]

/-- Settles O17: each packet has its command's word 0 and operands, and each command answers with the constructor or
setter of R50 to R54 it is named for. -/
theorem entryBuildingCommandsMaskTheirOperands : Obligations.EntryBuildingCommandsMaskTheirOperands := by
  refine ⟨fun _ _ _ _ => ⟨?_, ?_, ?_, ?_, ?_⟩, fun _ _ _ _ => ⟨rfl, rfl, rfl, rfl, rfl⟩⟩ <;>
    exact decodePacket_eq_command_iff.2 ⟨rfl, _, rfl⟩

/-- Settles O18: each packet has its command's word 0 and operand, and each command answers with the accessor or test
of R49, R53 and R54 it is named for. -/
theorem entryReadingCommandsReturnTheirPart : Obligations.EntryReadingCommandsReturnTheirPart := by
  refine ⟨fun _ _ _ _ => ⟨?_, ?_, ?_, ?_⟩, fun e s => ⟨?isUnused, rfl, rfl, rfl⟩⟩
  case isUnused =>
    rw [← boolWord_isUnused]
    rfl
  all_goals exact decodePacket_eq_command_iff.2 ⟨rfl, _, rfl⟩

end Sys2Proof.Machine

/-! ### The frame allocator: a stack of free frames over a bump cursor

Each path of `Alloc()` and `Free(f)` becomes an equation of `exec`; a push and a pop of the stack then act on `FreeList`,
and a run of packets is an induction over these. -/

namespace Sys2Proof.Machine

variable {s t : State} {f : PhysAddr} {fs : List PhysAddr} {c : FatalCause} {rest : List HostAction}

/-! #### A push, a pop and a bump (R66, R68) -/

/-- What `Free(f)` leaves: the frame at the head, its first word the old head. -/
def State.pushed (s : State) (f : PhysAddr) : State :=
  (s.withFreeHead f).withMem (s.mem.writeWord f s.freeHead.val)

/-- What the free-list path of `Alloc()` leaves: the head followed to the next frame. -/
def State.popped (s : State) : State := s.withFreeHead ⟨s.mem.readWord s.freeHead⟩

/-- What the bump path of `Alloc()` leaves: the cursor one frame on, the frame passed zeroed. -/
def State.bumped (s : State) : State :=
  { s with heapTop := ⟨s.heapTop.val + 4096⟩, mem := s.mem.zeroRange s.heapTop.val.toNat 4096 }

/-- The state `alloc_bump` gives is the one named here. -/
theorem State.bumped_eq (s : State) :
    (s.withHeapTop (s.heapTop.add (BitVec.ofNat 64 Config.frameSize))).withMem
      (s.mem.zeroRange s.heapTop.val.toNat Config.frameSize) = s.bumped := by
  rw [State.withMem, State.withHeapTop]
  rfl

@[simp] theorem State.bumped_heapTop (s : State) : s.bumped.heapTop = ⟨s.heapTop.val + 4096⟩ := rfl
@[simp] theorem State.bumped_freeHead (s : State) : s.bumped.freeHead = s.freeHead := by simp [← State.bumped_eq]
@[simp] theorem State.bumped_inited (s : State) : s.bumped.inited = s.inited := by simp [← State.bumped_eq]
@[simp] theorem State.bumped_lock (s : State) : s.bumped.lock = s.lock := by simp [← State.bumped_eq]
@[simp] theorem State.bumped_fatal (s : State) : s.bumped.fatal = s.fatal := by simp [← State.bumped_eq]
@[simp] theorem State.bumped_params (s : State) : s.bumped.params = s.params := by simp [← State.bumped_eq]
@[simp] theorem State.bumped_inbox (s : State) : s.bumped.inbox = s.inbox := by simp [← State.bumped_eq]

/-- R73 (b): the word a push stores is the head the next pop restores. -/
theorem State.pushed_popped (s : State) (f : PhysAddr) :
    (s.pushed f).popped = s.withMem (s.mem.writeWord f s.freeHead.val) := by
  have hlink : (s.mem.writeWord f s.freeHead.val).readWord f = s.freeHead.val := Memory.readWord_writeWord_same _ _ _
  simp only [State.popped, State.pushed, State.withMem_mem, State.withMem_freeHead, State.withFreeHead_freeHead, hlink]
  rfl

/-! #### `FA_ALLOC` by what `Alloc()` does (R70) -/

theorem exec_faAlloc_of_some (h : alloc s = .done (some f) t) : exec .faAlloc s = .next (t.respond .ok f.val 0) := by
  rw [exec, execFaAlloc, h]
  rfl

theorem exec_faAlloc_of_none (h : alloc s = .done none t) : exec .faAlloc s = .next (t.respond .none 0 0) := by
  rw [exec, execFaAlloc, h]
  rfl

theorem exec_faAlloc_of_raised (h : alloc s = .raised c t) : exec .faAlloc s = .next (t.raiseFatal c) := by
  rw [exec, execFaAlloc, h]
  rfl

theorem exec_faAlloc_of_hung (h : alloc s = .hung) : exec .faAlloc s = .fault .lockHeld := by
  rw [exec, execFaAlloc, h]
  rfl

theorem exec_faAlloc_pop (hi : s.inited = true) (hl : s.lock = false) (hf : s.freeHead ≠ freeNil)
    (hm : s.inMemory s.freeHead 8 = true) : exec .faAlloc s = .next (s.popped.respond .ok s.freeHead.val 0) :=
  exec_faAlloc_of_some (alloc_pop hi hl hf hm)

/-- R74 (a): popping a frame linked to itself changes nothing but the response. -/
theorem exec_faAlloc_of_self_linked (hi : s.inited = true) (hl : s.lock = false) (hf : s.freeHead ≠ freeNil)
    (hm : s.inMemory s.freeHead 8 = true) (hself : s.mem.readWord s.freeHead = s.freeHead.val) :
    exec .faAlloc s = .next (s.respond .ok s.freeHead.val 0) := by
  rw [exec_faAlloc_pop hi hl hf hm, State.popped, hself]
  rfl

theorem exec_faAlloc_bump (hi : s.inited = true) (hl : s.lock = false) (hf : s.freeHead = freeNil)
    (hfit : s.heapTop.val.toNat + 4096 ≤ s.params.heapLimit) (hm : s.inMemory s.heapTop 4096 = true) :
    exec .faAlloc s = .next (s.bumped.respond .ok s.heapTop.val 0) :=
  s.bumped_eq ▸ execFaAlloc_bump hi hl hf (State.heapExhausted_eq_false.2 hfit) hm

theorem exec_faAlloc_exhausted (hi : s.inited = true) (hl : s.lock = false) (hf : s.freeHead = freeNil)
    (hx : s.heapExhausted = true) : exec .faAlloc s = .next (s.respond .none 0 0) :=
  exec_faAlloc_of_none (alloc_exhausted hi hl hf hx)

/-- `Alloc()` yields no frame on one path alone (R67). -/
theorem exhausted_of_alloc_none (h : alloc s = .done none t) :
    s.freeHead = freeNil ∧ s.heapExhausted = true ∧ t = s := by
  rcases alloc_cases s with ⟨-, e⟩ | ⟨-, -, e⟩ |
    ⟨-, -, ⟨-, -, e⟩ | ⟨-, -, e⟩ | ⟨hf, hx, e⟩ | ⟨-, -, -, e⟩ | ⟨-, -, -, e⟩⟩ <;> cases h.symm.trans e
  exact ⟨hf, hx, rfl⟩

/-- R101: the status `NONE` is `Alloc()` yielding no frame. -/
theorem alloc_none_of_lastStatus (h : exec .faAlloc s = .next t) (hn : t.lastStatus = some .none) :
    ∃ u, alloc s = .done none u ∧ t = u.respond .none 0 0 := by
  cases ha : alloc s with
  | done a u =>
    cases a with
    | none =>
      cases (exec_faAlloc_of_none ha).symm.trans h
      exact ⟨u, rfl, rfl⟩
    | some f =>
      cases (exec_faAlloc_of_some ha).symm.trans h
      cases hn
  | raised c u =>
    cases (exec_faAlloc_of_raised ha).symm.trans h
    cases hn
  | hung => cases (exec_faAlloc_of_hung ha).symm.trans h

/-! #### `FA_FREE` by what `Free(f)` does (R71) -/

theorem free_not_inited (hi : s.inited = false) : free f s = .raised .order s := by
  simp [free, hi]

theorem free_locked (hi : s.inited = true) (hl : s.lock = true) : free f s = .hung := by
  simp [free, hi, lockAcquire, hl]

theorem free_beyond (hi : s.inited = true) (hl : s.lock = false) (hm : s.inMemory f 8 = false) :
    free f s = .raised .bus (s.withLock true) := by
  simp [free, hi, lockAcquire, hl, memWrite, hm]

theorem exec_faFree_of_raised (h : free f s = .raised c t) : exec (.faFree f) s = .next (t.raiseFatal c) := by
  rw [exec, execFaFree, h]
  rfl

theorem exec_faFree_of_hung (h : free f s = .hung) : exec (.faFree f) s = .fault .lockHeld := by
  rw [exec, execFaFree, h]
  rfl

theorem exec_faFree_push (hi : s.inited = true) (hl : s.lock = false) (hm : s.inMemory f 8 = true) :
    exec (.faFree f) s = .next ((s.pushed f).respond .ok 0 0) :=
  execFaFree_inMemory hi hl hm

/-- `FA_FREE` answers `OK` where it pushes, and nowhere else. -/
theorem push_of_lastStatus (h : exec (.faFree f) s = .next t) (hok : t.lastStatus = some .ok) :
    s.inited = true ∧ s.lock = false ∧ s.inMemory f 8 = true ∧ t = (s.pushed f).respond .ok 0 0 := by
  rcases free_cases f s with ⟨-, e⟩ | ⟨-, -, e⟩ | ⟨hi, hl, ⟨hm, -⟩ | ⟨-, e⟩⟩
  · cases (exec_faFree_of_raised e).symm.trans h
    cases hok
  · cases (exec_faFree_of_hung e).symm.trans h
  · cases (exec_faFree_push hi hl hm).symm.trans h
    exact ⟨hi, hl, hm, rfl⟩
  · cases (exec_faFree_of_raised e).symm.trans h
    cases hok

/-- R73 (b): the allocation after a push takes the frame pushed. -/
theorem exec_faAlloc_pushed (hi : s.inited = true) (hl : s.lock = false) (hf : f ≠ freeNil)
    (hm : s.inMemory f 8 = true) :
    exec .faAlloc ((s.pushed f).respond .ok 0 0) =
      .next ((s.withMem (s.mem.writeWord f s.freeHead.val)).respond .ok f.val 0) := by
  rw [← State.pushed_popped]
  exact exec_faAlloc_pop (s := (s.pushed f).respond .ok 0 0) hi hl hf hm

/-! #### `FA_INIT` (R69), and the lock (R72) -/

theorem exec_faInit_first (hi : s.inited = false) (hl : s.lock = false) :
    exec (.faInit f) s = .next ((s.initialised f).respond .ok 0 0) := by
  have hacquire : lockAcquire s = .done () (s.withLock true) := lockAcquire_eq_done.2 ⟨hl, rfl⟩
  have hrelease : lockRelease ((s.withLock true).initialised f) = s.initialised f :=
    State.withLock_of_eq (s := s.initialised f) hl
  simp [exec, execFaInit, hi, hacquire, hrelease]

theorem exec_faInit_again (hi : s.inited = true) : exec (.faInit f) s = .next (s.raiseFatal .order) := by
  simp [exec, execFaInit, hi]

theorem exec_faInit_locked (hi : s.inited = false) (hl : s.lock = true) :
    exec (.faInit f) s = .fault .lockHeld := by
  simp [exec, execFaInit, hi, lockAcquire, hl]

theorem exec_ptCreate_of_hung (h : alloc s = .hung) : exec .ptCreate s = .fault .lockHeld := by
  rw [exec, execPtCreate, h]
  rfl

/-! #### The free list (R20 (b), R65) -/

/-- The list is read from memory alone, one word of each frame. -/
theorem FreeChain.congr {head : PhysAddr} (h : FreeChain s head fs) (hp : t.params = s.params)
    (hw : ∀ g ∈ fs, t.mem.readWord g = s.mem.readWord g) : FreeChain t head fs := by
  induction fs generalizing head with
  | nil => exact h
  | cons g gs ih =>
    obtain ⟨hhead, hnil, hmem, hchain⟩ := h
    refine ⟨hhead, hnil, (State.inMemory_congr hp g 8).trans hmem, ?_⟩
    rw [hw g List.mem_cons_self]
    exact ih hchain fun g' hg' => hw g' (List.mem_cons_of_mem g hg')

theorem FreeList.respond (h : FreeList s fs) (st : Status) (r0 r1 : Word) : FreeList (s.respond st r0 r1) fs := by
  obtain ⟨hi, hl, hchain⟩ := h
  exact ⟨hi, hl, hchain.congr rfl fun _ _ => rfl⟩

theorem FreeList.withInbox (h : FreeList s fs) (q : List HostAction) : FreeList (s.withInbox q) fs := by
  obtain ⟨hi, hl, hchain⟩ := h
  exact ⟨hi, hl, hchain.congr rfl fun _ _ => rfl⟩

theorem FreeList.pushed (h : FreeList s fs) (hf : f ≠ freeNil) (hm : s.inMemory f 8 = true)
    (hapart : ∀ g ∈ fs, apart f 8 g 8 = true) : FreeList (s.pushed f) (f :: fs) := by
  obtain ⟨hi, hl, hchain⟩ := h
  have hlink : (s.pushed f).mem.readWord f = s.freeHead.val := Memory.readWord_writeWord_same _ _ _
  have hkept : ∀ g ∈ fs, (s.pushed f).mem.readWord g = s.mem.readWord g := fun g hg =>
    Memory.readWord_writeWord_apart _ _ _ _ (by simpa [apart] using hapart g hg)
  refine ⟨hi, hl, rfl, hf, hm, ?_⟩
  rw [hlink]
  exact hchain.congr rfl hkept

theorem FreeList.popped (h : FreeList s (f :: fs)) : FreeList s.popped fs := by
  obtain ⟨hi, hl, rfl, -, -, hchain⟩ := h
  exact ⟨hi, hl, hchain.congr rfl fun _ _ => rfl⟩

theorem FreeList.bumped (h : FreeList s []) : FreeList s.bumped [] := by
  obtain ⟨hi, hl, hnil⟩ := h
  exact ⟨s.bumped_inited.trans hi, s.bumped_lock.trans hl, s.bumped_freeHead.trans hnil⟩

theorem FreeList.exec_faAlloc_pop (h : FreeList s (f :: fs)) :
    exec .faAlloc s = .next (s.popped.respond .ok f.val 0) := by
  obtain ⟨hi, hl, rfl, hf, hm, -⟩ := h
  exact Machine.exec_faAlloc_pop hi hl hf hm

theorem FreeList.exec_faAlloc_bump (h : FreeList s []) (hfit : s.heapTop.val.toNat + 4096 ≤ s.params.heapLimit)
    (hm : s.inMemory s.heapTop 4096 = true) : exec .faAlloc s = .next (s.bumped.respond .ok s.heapTop.val 0) := by
  obtain ⟨hi, hl, hf⟩ := h
  exact Machine.exec_faAlloc_bump hi hl hf hfit hm

/-- Settles O27: the equation of `exec` for a push, a pop, a bump and an exhausted heap, each with what it does to the
list. -/
theorem allocatorRefinesAStackOverACursor : Obligations.AllocatorRefinesAStackOverACursor := by
  refine ⟨fun s f fs h hf hm hapart => ?push, fun s f fs h => ?pop, fun s h hfit hm => ?bump, fun s h hx => ?none⟩
  case push =>
    have ⟨hi, hl, _⟩ := h
    exact ⟨_, exec_faFree_push hi hl hm, rfl, (h.pushed hf hm hapart).respond .ok 0 0, rfl⟩
  case pop => exact ⟨_, h.exec_faAlloc_pop, rfl, h.popped.respond .ok f.val 0, rfl, rfl⟩
  case bump => exact ⟨_, h.exec_faAlloc_bump hfit hm, rfl, h.bumped.respond .ok s.heapTop.val 0, rfl⟩
  case none =>
    obtain ⟨hi, hl, hf⟩ := h
    exact exec_faAlloc_exhausted hi hl hf (s.heapExhausted_iff.2 hx)

/-! #### Freeing, then allocating (R67, R73 (b), R74 (a)) -/

/-- Settles O24: `NONE` comes from the one path of `Alloc()` that yields no frame; a push after it is popped next. -/
theorem exhaustionIsExactAndNotSticky : Obligations.ExhaustionIsExactAndNotSticky := by
  intro s hi hl
  refine ⟨⟨?exhausted, ?answersNone⟩, ?notSticky⟩
  case exhausted =>
    intro ⟨t, ht, hn⟩
    obtain ⟨u, ha, -⟩ := alloc_none_of_lastStatus ht hn
    obtain ⟨hf, hx, -⟩ := exhausted_of_alloc_none ha
    exact ⟨hf, s.heapExhausted_iff.1 hx⟩
  case answersNone =>
    intro ⟨hf, hx⟩
    exact ⟨_, exec_faAlloc_exhausted hi hl hf (s.heapExhausted_iff.2 hx), rfl⟩
  case notSticky =>
    intro t ht hn
    obtain ⟨u, ha, rfl⟩ := alloc_none_of_lastStatus ht hn
    obtain ⟨-, -, rfl⟩ := exhausted_of_alloc_none ha
    refine ⟨rfl, fun f v hf hv hok => ?_⟩
    obtain ⟨hi', hl', hm, rfl⟩ := push_of_lastStatus hv hok
    exact ⟨_, exec_faAlloc_pushed hi' hl' hf hm, rfl⟩

/-- Settles O26: a pop undoes a push but for the link, and a list apart from the link is the list again. -/
theorem freedFrameIsAllocatedNext : Obligations.FreedFrameIsAllocatedNext := by
  intro f s hi hl hf hm
  refine ⟨_, _, exec_faFree_push hi hl hm, exec_faAlloc_pushed hi hl hf hm, rfl, fun fs h hapart => ?_⟩
  rw [← State.pushed_popped]
  exact (h.pushed hf hm hapart).popped.respond .ok f.val 0

/-- Settles O30: the second push stores the head the first one set, the frame itself. -/
theorem doubleFreeMakesAOneFrameCycle : Obligations.DoubleFreeMakesAOneFrameCycle := by
  intro f s t u hi hl hf hm ht hu
  cases (exec_faFree_push hi hl hm).symm.trans ht
  cases (exec_faFree_push (s := (s.pushed f).respond .ok 0 0) hi hl hm).symm.trans hu
  have hself (m : Memory) : (m.writeWord f f.val).readWord f = f.val := Memory.readWord_writeWord_same m f f.val
  exact ⟨rfl, hself _, exec_faAlloc_of_self_linked (s := State.respond _ .ok 0 0) hi hl hf hm (hself _)⟩

/-! #### Runs of `FA_ALLOC` packets (R73 (c), (d)) -/

theorem step_faAlloc (hq : s.inbox = .command (encode .faAlloc) :: rest) (hf : s.fatal = false) :
    step s = exec .faAlloc (s.withInbox rest) :=
  (step_of_inbox_cons hq).trans (processPacket_of_command (s := s.withInbox rest) hf (decodePacket_encode .faAlloc))

/-- One packet on a list that is not empty: its head is the answer, its tail the list. -/
theorem FreeList.step_faAlloc_pop (h : FreeList s (f :: fs))
    (hq : s.inbox = .command (encode .faAlloc) :: rest) (hf : s.fatal = false) :
    ∃ t, step s = .next t ∧ t.response = some ⟨.ok, f.val, 0⟩ ∧ FreeList t fs ∧ t.heapTop = s.heapTop ∧
      t.inbox = rest ∧ t.fatal = false :=
  have hlist := h.withInbox rest
  ⟨_, (step_faAlloc hq hf).trans hlist.exec_faAlloc_pop, rfl, hlist.popped.respond .ok f.val 0, rfl, rfl, hf⟩

/-- One packet on an empty list, a frame left: the cursor is the answer, and moves one frame on. -/
theorem FreeList.step_faAlloc_bump (h : FreeList s []) (hq : s.inbox = .command (encode .faAlloc) :: rest)
    (hf : s.fatal = false) (hfit : s.heapTop.val.toNat + 4096 ≤ s.params.heapLimit)
    (hm : s.inMemory s.heapTop 4096 = true) :
    ∃ t, step s = .next t ∧ t.response = some ⟨.ok, s.heapTop.val, 0⟩ ∧ FreeList t [] ∧
      t.heapTop = ⟨s.heapTop.val + 4096⟩ ∧ t.inbox = rest ∧ t.fatal = false ∧ t.params = s.params :=
  have hlist := h.withInbox rest
  ⟨_, (step_faAlloc hq hf).trans (hlist.exec_faAlloc_bump hfit hm), rfl,
    hlist.bumped.respond .ok s.heapTop.val 0, rfl, by simp, by simpa using hf, by simp⟩

/-- Settles O28, by induction on the list: the first packet pops its head and leaves the run on its tail. -/
theorem runOfAllocationsEmptiesTheFreeListInOrder : Obligations.RunOfAllocationsEmptiesTheFreeListInOrder := by
  intro fs
  induction fs with
  | nil => exact fun _ _ _ _ _ _ hk => absurd hk (Nat.not_lt_zero _)
  | cons f fs ih =>
    intro s rest h hf hq k hk
    obtain ⟨t, hstep, hresp, hlist, htop, hinbox, hfatal⟩ := h.step_faAlloc_pop hq hf
    cases k with
    | zero => exact ⟨t, run_succ_of_next 0 hstep, hresp, hlist, htop⟩
    | succ k =>
      obtain ⟨u, hrun, hresp, hlist, htop'⟩ := ih t rest hlist hfatal hinbox k (Nat.lt_of_succ_lt_succ hk)
      exact ⟨u, (run_succ_of_next (k + 1) hstep).trans hrun, hresp, hlist, htop'.trans htop⟩

/-- Moving on by one frame, then by `k`, is moving on by `k + 1`. -/
theorem add_frame_add_frames (w : Word) (k : Nat) :
    w + 4096 + BitVec.ofNat 64 (k * 4096) = w + BitVec.ofNat 64 ((k + 1) * 4096) := by
  rw [Nat.succ_mul, Nat.add_comm, BitVec.ofNat_add, BitVec.add_assoc]
  rfl

/-- Settles O29, by induction on the number of frames: the first packet moves the cursor one frame on, below
`HEAP_LIMIT` and so without wrapping, and leaves the rest of the run above it. -/
theorem runOfBumpAllocationsHandsOutConsecutiveFrames :
    Obligations.RunOfBumpAllocationsHandsOutConsecutiveFrames := by
  intro n
  induction n with
  | zero => exact fun _ _ _ _ _ _ _ _ _ hk => absurd hk (Nat.not_lt_zero _)
  | succ n ih =>
    intro s rest h hf hfit hsize hlimit hq k hk
    have hfirst : s.heapTop.val.toNat + 4096 ≤ s.params.heapLimit := by omega
    have hm : s.inMemory s.heapTop 4096 = true := (s.inMemory_iff _ _).2 ⟨hfirst.trans hsize, by omega⟩
    obtain ⟨t, hstep, hresp, hlist, htop, hinbox, hfatal, hparams⟩ := h.step_faAlloc_bump hq hf hfirst hm
    cases k with
    | zero =>
      refine ⟨t, run_succ_of_next 0 hstep, ?_, hlist, htop⟩
      rw [hresp, Nat.zero_mul, BitVec.ofNat_eq_ofNat, BitVec.add_zero]
    | succ k =>
      have hcursor : t.heapTop.val.toNat = s.heapTop.val.toNat + 4096 := by
        rw [htop, BitVec.toNat_add, show (4096 : Word).toNat = 4096 from rfl]
        omega
      rw [← hparams] at hfit hsize hlimit
      obtain ⟨u, hrun, hresp, hlist, htop'⟩ :=
        ih t rest hlist hfatal (by omega) hsize hlimit hinbox k (Nat.lt_of_succ_lt_succ hk)
      rw [htop, add_frame_add_frames] at hresp htop'
      exact ⟨u, (run_succ_of_next (k + 1) hstep).trans hrun, hresp, hlist, htop'⟩

/-! #### Each command, path by path (R69 to R72) -/

/-- Settles O22: `INITED` decides the path, before the lock is looked at. -/
theorem faInitRecordsBaseAndCursorOnce : Obligations.FaInitRecordsBaseAndCursorOnce :=
  ⟨fun _ _ _ _ => decodePacket_eq_command_iff.2 ⟨rfl, _, rfl⟩, fun _ _ => ⟨exec_faInit_first, exec_faInit_again⟩⟩

/-- Settles O23: the six paths of `Alloc()` with the lock free. -/
theorem faAllocTakesTheFreeListFirst : Obligations.FaAllocTakesTheFreeListFirst := by
  refine ⟨fun _ _ _ _ => decodePacket_eq_command_iff.2 ⟨rfl, _, rfl⟩, fun s hl =>
    ⟨fun hi => exec_faAlloc_of_raised (alloc_not_inited hi),
      fun hi hf hm => exec_faAlloc_pop hi hl hf hm,
      fun hi hf hm => exec_faAlloc_of_raised (alloc_pop_bus hi hl hf hm),
      fun hi hf hx => exec_faAlloc_exhausted hi hl hf (s.heapExhausted_iff.2 hx),
      fun hi hf hfit hm => ?bump,
      fun hi hf hfit hm => exec_faAlloc_of_raised
        (alloc_bump_bus hi hl hf (State.heapExhausted_eq_false.2 hfit) hm)⟩⟩
  case bump =>
    have hbump := exec_faAlloc_bump hi hl hf hfit hm
    refine ⟨_, hbump, fun i hlt => ?_, fun _ hx => Memory.read_zeroRange_outside _ hx⟩
    rw [Memory.read_zeroRange, if_pos ⟨Nat.le_add_right _ _, Nat.add_lt_add_left hlt _⟩]

/-- Settles O25: the three paths of `Free(f)` with the lock free. -/
theorem faFreePushesAnyFrameInMemory : Obligations.FaFreePushesAnyFrameInMemory :=
  ⟨fun _ _ _ _ => decodePacket_eq_command_iff.2 ⟨rfl, _, rfl⟩, fun _ _ hl =>
    ⟨fun hi => exec_faFree_of_raised (free_not_inited hi),
      fun hi hm => exec_faFree_push hi hl hm,
      fun hi hm => exec_faFree_of_raised (free_beyond hi hl hm)⟩⟩

/-- Settles O32: once `INITED` allows it, each of the four commands takes the lock before anything else. -/
theorem heldLockIsAHang : Obligations.HeldLockIsAHang := fun _ _ hl =>
  ⟨fun hi => exec_faInit_locked hi hl, fun hi =>
    ⟨exec_faAlloc_of_hung (alloc_locked hi hl), exec_faFree_of_hung (free_locked hi hl),
      exec_ptCreate_of_hung (alloc_locked hi hl)⟩⟩

end Sys2Proof.Machine

/-! ### Refreshing an entry -/

namespace Sys2Proof.Machine

theorem isPresent_or_three (e : Pte) : isPresent (e ||| 3) = true := by
  have hbit : (3 : Word).getLsbD 0 = true := rfl
  rw [isPresent, BitVec.getLsbD_or, hbit, Bool.or_true]

/-- R53, R54: an entry whose bit 0 is set is not all zeros. -/
theorem isUnused_of_isPresent {e : Pte} (h : isPresent e = true) : isUnused e = false := by
  refine beq_eq_false_iff_ne.2 fun h0 => ?_
  rw [h0] at h
  exact absurd h (by decide)

theorem isUnused_or_three (e : Pte) : isUnused (e ||| 3) = false := isUnused_of_isPresent (isPresent_or_three e)

/-- Settles O20: the refresh is the entry with bits 0 and 1 set, which lie outside the address field. -/
theorem refreshOnlyAddsPresentAndWritable : Obligations.RefreshOnlyAddsPresentAndWritable := by
  intro e
  rw [refreshTable_eq_or]
  exact ⟨rfl, physAddr_or_three e, isUnused_or_three e⟩

end Sys2Proof.Machine

/-! ### The walker's commands

Each command is `RequireRoot()` and then a procedure (R75), so with a root it is that procedure's ending. -/

namespace Sys2Proof.Machine

variable {v w : VirtAddr} {p q : PhysAddr} {f : FlagWord} {size : Word} {s t u : State}

/-! #### The root (R75, R78, R79, R86) -/

theorem requireRoot_bind {α : Type} (h : s.ptValid = true) (k : Unit → State → Eff α) :
    (requireRoot s).bind k = k () s := by
  rw [requireRoot_valid h, Eff.bind_done]

/-- Settles O34: `RequireRoot()` is the first thing each of the seven commands does. -/
theorem walkerCommandsNeedARoot : Obligations.WalkerCommandsNeedARoot := by
  intro i s hneeds hroot
  have hraise (k : Unit → State → Eff Response) : ((requireRoot s).bind k).finish = .next (s.raiseFatal .noroot) := by
    rw [requireRoot_invalid hroot]
    rfl
  cases i with
  | ptMap | ptUnmap | ptGetL1 | ptRetrieve | ptMapRegion | ptUnmapRegion | ptEnable => exact hraise _
  | _ => cases hneeds

/-- Settles O36: the command is one write of the root and an answer. -/
theorem ptAttachAdoptsItsOperandUnchecked : Obligations.PtAttachAdoptsItsOperandUnchecked :=
  ⟨fun _ _ _ _ => decodePacket_eq_command_iff.2 ⟨rfl, _, rfl⟩, fun _ _ => rfl⟩

theorem exec_ptEnable_of_root (h : s.ptValid = true) :
    exec .ptEnable s = .next ((s.withActiveRoot s.ptRoot).respond .ok 0 0) := by
  rw [exec, execPtEnable, requireRoot_bind h]
  rfl

/-- Settles O37: with a root the copy is all the command does, and O34 says the rest. -/
theorem ptEnableCopiesTheRoot : Obligations.PtEnableCopiesTheRoot :=
  ⟨fun _ _ _ _ => decodePacket_eq_command_iff.2 ⟨rfl, _, rfl⟩, fun s =>
    ⟨exec_ptEnable_of_root, walkerCommandsNeedARoot .ptEnable s rfl⟩⟩

/-! #### `PT_CREATE` by what `Alloc()` does (R78) -/

theorem exec_ptCreate_of_raised {c : FatalCause} (h : alloc s = .raised c t) :
    exec .ptCreate s = .next (t.raiseFatal c) := by
  rw [exec, execPtCreate, h]
  rfl

theorem exec_ptCreate_of_none (h : alloc s = .done none t) : exec .ptCreate s = .next (t.respond .none 0 0) := by
  rw [exec, execPtCreate, h]
  rfl

/-- The frame `Alloc()` yields is zeroed and becomes the root. -/
theorem exec_ptCreate_of_some (h : alloc s = .done (some p) t) (hm : t.inMemory p Config.frameSize = true) :
    exec .ptCreate s =
      .next (((t.withMem (t.mem.zeroRange p.val.toNat Config.frameSize)).withRoot p).respond .ok p.val 0) := by
  simp only [exec, execPtCreate, h, Eff.bind_done, zeroFrame_inMemory hm, Eff.finish_done]

theorem exec_ptCreate_beyond (h : alloc s = .done (some p) t) (hm : t.inMemory p Config.frameSize = false) :
    exec .ptCreate s = .next (t.raiseFatal .bus) := by
  simp only [exec, execPtCreate, h, Eff.bind_done, zeroFrame_eq_raised.2 ⟨hm, rfl, rfl⟩, Eff.bind_raised,
    Eff.finish_raised]

theorem State.inMemory_mono {a : PhysAddr} {n k : Nat} (hk : k ≤ n) (h : s.inMemory a n = true) :
    s.inMemory a k = true := by
  rw [State.inMemory_iff] at h ⊢
  omega

/-- A range zeroed again is as it was after the first time. -/
theorem Memory.zeroRange_zeroRange (m : Memory) (a n : Nat) : (m.zeroRange a n).zeroRange a n = m.zeroRange a n := by
  rw [Memory.zeroRange, Memory.zeroRange, List.filter_filter]
  simp only [Bool.and_self]

/-- What a zeroed range holds, and what it leaves. -/
theorem Memory.zeroRange_reads (m : Memory) (f : PhysAddr) (n : Nat) :
    (∀ i < n, Memory.read (m.zeroRange f.val.toNat n) (f.val.toNat + i) = 0) ∧
      ∀ x, outside x f n → Memory.read (m.zeroRange f.val.toNat n) x = Memory.read m x := by
  refine ⟨fun i hi => ?_, fun x hx => Memory.read_zeroRange_outside m hx⟩
  rw [Memory.read_zeroRange, if_pos ⟨Nat.le_add_right _ _, Nat.add_lt_add_left hi _⟩]

@[simp] theorem State.bumped_mem (s : State) : s.bumped.mem = s.mem.zeroRange s.heapTop.val.toNat 4096 := rfl

@[simp] theorem State.bumped_inMemory (s : State) (a : PhysAddr) (n : Nat) : s.bumped.inMemory a n = s.inMemory a n :=
  State.inMemory_congr s.bumped_params a n

/-- A bump whose frame, its memory `m`, becomes the root. -/
theorem State.bumped_withMem_withRoot (s : State) (m : Memory) (r : PhysAddr) :
    (s.bumped.withMem m).withRoot r =
      { s with heapTop := ⟨s.heapTop.val + 4096⟩, mem := m, ptRoot := r, ptValid := true } := by
  rw [State.withRoot, State.withMem, State.bumped]

/-- The bump path, in the terms of `State.bumped`. -/
theorem alloc_bumped (hi : s.inited = true) (hl : s.lock = false) (hf : s.freeHead = freeNil)
    (hfit : s.heapTop.val.toNat + 4096 ≤ s.params.heapLimit) (hm : s.inMemory s.heapTop 4096 = true) :
    alloc s = .done (some s.heapTop) s.bumped :=
  s.bumped_eq ▸ alloc_bump hi hl hf (State.heapExhausted_eq_false.2 hfit) hm

/-- Settles O35: the paths of `Alloc()` with the lock free, the frame it yields zeroed once more. -/
theorem ptCreateAdoptsAZeroedFrame : Obligations.PtCreateAdoptsAZeroedFrame := by
  refine ⟨fun _ _ _ _ => decodePacket_eq_command_iff.2 ⟨rfl, _, rfl⟩, fun s hl =>
    ⟨fun hi => exec_ptCreate_of_raised (alloc_not_inited hi),
      fun hi hf hx => exec_ptCreate_of_none (alloc_exhausted hi hl hf (s.heapExhausted_iff.2 hx)),
      fun hi hf hm => ?pop, fun hi hf hfit hm => ?bump,
      fun hi hf hm => exec_ptCreate_of_raised (alloc_pop_bus hi hl hf hm),
      fun hi hf hm8 hm => ?popBeyond,
      fun hi hf hfit hm => exec_ptCreate_of_raised
        (alloc_bump_bus hi hl hf (State.heapExhausted_eq_false.2 hfit) hm)⟩⟩
  case pop =>
    have halloc := alloc_pop hi hl hf (State.inMemory_mono (by decide) hm)
    exact ⟨_, exec_ptCreate_of_some halloc hm, Memory.zeroRange_reads s.mem s.freeHead 4096⟩
  case popBeyond =>
    have hexec := exec_ptCreate_beyond (alloc_pop hi hl hf hm8) hm
    exact hexec
  case bump =>
    have hexec := exec_ptCreate_of_some (alloc_bumped hi hl hf hfit hm) ((s.bumped_inMemory _ _).trans hm)
    rw [State.bumped_mem, Config.frameSize, Memory.zeroRange_zeroRange, State.bumped_withMem_withRoot] at hexec
    exact ⟨_, hexec, Memory.zeroRange_reads s.mem s.heapTop 4096⟩

/-! #### The other commands with a root, as their procedures (R80 to R85) -/

theorem exec_ptMap_of_root (h : s.ptValid = true) :
    exec (.ptMap v p f) s = ((mapOne v p f s).bind fun st s => .done ⟨st, 0, 0⟩ s).finish := by
  rw [exec, execPtMap, requireRoot_bind h]

theorem exec_ptUnmap_of_root (h : s.ptValid = true) :
    exec (.ptUnmap v) s = ((unmapOne v s).bind fun _ s => .done ⟨.ok, 0, 0⟩ s).finish := by
  rw [exec, execPtUnmap, requireRoot_bind h]

theorem exec_ptMapRegion_of_root (h : s.ptValid = true) :
    exec (.ptMapRegion v p size f) s = (mapPages v p f (pageCount size).toNat 0 s).finish := by
  rw [exec, execPtMapRegion, requireRoot_bind h]

theorem exec_ptUnmapRegion_of_root (h : s.ptValid = true) :
    exec (.ptUnmapRegion v size) s = (unmapPages v (pageCount size).toNat 0 s).finish := by
  rw [exec, execPtUnmapRegion, requireRoot_bind h]

/-! #### The page offset (R76 (f), R83) -/

/-- R50: an entry takes the address field of its operand and no more. -/
theorem newPageEntry_congr (h : p.val &&& addrMask = q.val &&& addrMask) : newPageEntry p = newPageEntry q := by
  funext f
  rw [newPageEntry, newPageEntry, h]

theorem mapOne_congr_page (h : newPageEntry p = newPageEntry q) (v : VirtAddr) : mapOne v p = mapOne v q := by
  funext f s
  rw [mapOne, mapOne, h]

/-- Settles O16: addresses that agree in bits 47 to 12 have the same indices, and operands that agree in the address
field the same entry. -/
theorem pageOffsetPlaysNoPartInAWalk : Obligations.PageOffsetPlaysNoPartInAWalk := by
  intro v w p q f s hpage hframe
  have hindex : index v = index w := index_congr 0xFFFFFFFFF000 (fun l => by cases l <;> decide) hpage
  have hfind := findL1_congr hindex
  have hmap : mapOne v p = mapOne w q := by rw [mapOne_congr hindex, mapOne_congr_page (newPageEntry_congr hframe)]
  refine ⟨?ptMap, ?ptUnmap, ?ptGetL1, ?ptRetrieve⟩
  case ptMap => simp only [exec, execPtMap, hmap]
  case ptUnmap => simp only [exec, execPtUnmap, unmapOne_congr hindex]
  case ptGetL1 => simp only [exec, execPtGetL1, hfind]
  case ptRetrieve => simp only [exec, execPtRetrieve, hfind]

/-! #### The commands that end a read-only walk (R77, R81 to R83) -/

theorem State.pathInMemory_iff :
    s.pathInMemory v = true ↔ s.ptValid = true ∧ ∀ l, s.inMemory (s.pathSlot v l) 8 = true := by
  simp only [State.pathInMemory, Bool.and_eq_true]
  constructor
  · intro ⟨⟨⟨⟨hroot, h4⟩, h3⟩, h2⟩, h1⟩
    exact ⟨hroot, fun l => by cases l <;> assumption⟩
  · intro ⟨hroot, h⟩
    exact ⟨⟨⟨⟨hroot, h .l4⟩, h .l3⟩, h .l2⟩, h .l1⟩

theorem lookupsUse_pathSlot (h : s.pathInMemory v = true) : lookupsUse v s (s.pathSlot v .l1) := by
  obtain ⟨hroot, hslots⟩ := State.pathInMemory_iff.1 h
  have hread := memRead_inMemory (hslots .l1)
  refine ⟨?ptUnmap, ?ptGetL1, ?ptRetrieve⟩
  case ptUnmap =>
    rw [exec_ptUnmap_of_root hroot, unmapOne_inMemory h]
    rfl
  case ptGetL1 =>
    rw [exec, execPtGetL1, requireRoot_bind hroot, findL1_inMemory h, Eff.bind_done, hread]
    rfl
  case ptRetrieve =>
    rw [exec, execPtRetrieve, requireRoot_bind hroot, findL1_inMemory h, Eff.bind_done, hread]
    rfl

/-- Settles O41: the slot each command uses is the level-1 slot of the path. -/
theorem lookupsAndUnmapFollowThePathUntested : Obligations.LookupsAndUnmapFollowThePathUntested :=
  fun _ _ h => lookupsUse_pathSlot h

/-- R77: below an unused entry the path goes on from the frame at address 0. -/
theorem State.pathTableAt_below_unused {l l' : Level} (h : l'.above = l.above ++ [l]) (h0 : s.pathEntry v l = 0) :
    s.pathTableAt v l' = ⟨0⟩ := by
  rw [State.pathTableAt_below h, h0]
  rfl

/-- Settles O42: from the table at address 0 the path is the one written out, and O41 says what is done at its end. -/
theorem unusedEntrySendsTheWalkToFrameZero : Obligations.UnusedEntrySendsTheWalkToFrameZero := by
  intro v s h
  have hend := lookupsUse_pathSlot h
  have hl1 : s.pathTableAt v .l1 = physAddr (s.mem.readWord (slot (s.pathTableAt v .l2) (index v .l2))) := rfl
  have hl2 : s.pathTableAt v .l2 = physAddr (s.mem.readWord (slot (s.pathTableAt v .l3) (index v .l3))) := rfl
  rw [State.pathSlot] at hend
  refine ⟨fun h4 => ?_, fun h3 => ?_, fun h2 => ?_⟩
  · rwa [hl1, hl2, State.pathTableAt_below_unused (l := .l4) rfl h4] at hend
  · rwa [hl1, State.pathTableAt_below_unused (l := .l3) rfl h3] at hend
  · rwa [State.pathTableAt_below_unused (l := .l2) rfl h2] at hend

end Sys2Proof.Machine

/-! ### Mapping a page whose tables exist -/

namespace Sys2Proof.Machine

variable {v w : VirtAddr} {p q : PhysAddr} {f g : FlagWord} {s t u : State} {l l' : Level}

/-! #### Memories that read alike, and words written at slots apart -/

theorem apart_iff {a b : PhysAddr} {n k : Nat} :
    apart a n b k = true ↔ a.val.toNat + n ≤ b.val.toNat ∨ b.val.toNat + k ≤ a.val.toNat := by
  simp [apart]

theorem apart_comm {a b : PhysAddr} {n k : Nat} : apart a n b k = apart b k a n := Bool.or_comm _ _

theorem apart_symm {a b : PhysAddr} {n k : Nat} (h : apart a n b k = true) : apart b k a n = true :=
  apart_comm.trans h

/-- A listed cell is what its address reads as, and in the canonical form every address that reads as anything but the
unlisted byte is listed. -/
theorem Memory.mem_iff_read {m : Memory} (h : m.wf = true) (c : Host.Cell) :
    c ∈ m ↔ Memory.read m c.1 = c.2 ∧ c.2 ≠ Config.unlistedByte := by
  obtain ⟨hrise, hlisted⟩ := (Memory.wf_iff m).1 h
  clear h
  obtain ⟨x, b⟩ := c
  induction m with
  | nil => simp [eq_comm]
  | cons d m ih =>
    obtain ⟨k, e⟩ := d
    rw [List.pairwise_cons] at hrise
    rw [List.forall_mem_cons] at hlisted
    obtain ⟨hbelow, hrise⟩ := hrise
    obtain ⟨he, hlisted⟩ := hlisted
    by_cases hk : k = x
    · subst hk
      have hnot : (k, b) ∉ m := fun hb => (hbelow _ hb).false
      rw [Memory.read_cons, if_pos rfl, List.mem_cons, Prod.mk.injEq]
      constructor
      · rintro (⟨-, rfl⟩ | hb)
        · exact ⟨rfl, he⟩
        · exact absurd hb hnot
      · rintro ⟨rfl, -⟩
        exact .inl ⟨rfl, rfl⟩
    · rw [Memory.read_cons, if_neg hk, List.mem_cons, Prod.mk.injEq, ih hrise hlisted]
      exact or_iff_right fun ⟨hx, _⟩ => hk hx.symm

/-- Canonical memories that read alike are one memory. -/
theorem Memory.ext_of_wf {m m' : Memory} (h : m.wf = true) (h' : m'.wf = true)
    (hread : ∀ x, Memory.read m x = Memory.read m' x) : m = m' := by
  have nodup {n : Memory} (hn : n.wf = true) : n.Nodup :=
    ((Memory.wf_iff n).1 hn).1.imp fun hlt heq => (heq ▸ hlt).false
  have hperm : m.Perm m' := (List.perm_ext_iff_of_nodup (nodup h) (nodup h')).2 fun c => by
    rw [Memory.mem_iff_read h, Memory.mem_iff_read h', hread]
  exact hperm.eq_of_pairwise (fun c d _ _ hcd hdc => absurd hcd hdc.asymm) ((Memory.wf_iff m).1 h).1
    ((Memory.wf_iff m').1 h').1

theorem Memory.readWord_writeWord_of_apart {m : Memory} {a b : PhysAddr} (w : Word) (h : apart a 8 b 8 = true) :
    (m.writeWord a w).readWord b = m.readWord b :=
  Memory.readWord_writeWord_apart m a b w (apart_iff.1 h)

/-- A byte of a word that reads alike reads alike. -/
theorem Memory.read_eq_of_readWord_eq {m m' : Memory} {a : PhysAddr} {x : Nat} (h : m.readWord a = m'.readWord a)
    (hx : ¬ outside x a 8) : Memory.read m x = Memory.read m' x := by
  rw [outside, not_or, not_lt, not_le] at hx
  obtain ⟨i, rfl⟩ := Nat.exists_eq_add_of_le hx.1
  have hi : i < 8 := by omega
  rw [← Memory.byteOfWord_readWord m a hi, ← Memory.byteOfWord_readWord m' a hi, h]

/-! #### A path, said level by level -/

/-- The levels in the order a walk visits them. -/
def Level.walked : List Level := [.l4, .l3, .l2, .l1]

theorem Level.mem_walked (l : Level) : l ∈ Level.walked := by cases l <;> decide

theorem Level.nodup_walked : Level.walked.Nodup := by decide

theorem Level.mem_interiorLevels_iff : l ∈ interiorLevels ↔ l ≠ .l1 := by cases l <;> decide

theorem Level.ne_l1_of_mem_above {l : Level} (h : l' ∈ l.above) : l' ≠ .l1 := by
  rintro rfl
  cases l <;> revert h <;> decide

/-- A level with a level below it is an interior level. -/
theorem Level.ne_l1_of_below (h : l'.above = l.above ++ [l]) : l ≠ .l1 := by
  rintro rfl
  cases l' <;> cases h

/-- The slots of `v` share no byte, level by level. -/
def State.slotsDisjoint (s : State) (v : VirtAddr) : Prop :=
  ∀ l l', l ≠ l' → apart (s.pathSlot v l) 8 (s.pathSlot v l') 8 = true

theorem State.slotsDisjoint.slotsApart (h : s.slotsDisjoint v) {ls : List Level} (hls : ls.Nodup) :
    s.slotsApart v ls := hls.imp fun hne => h _ _ hne

theorem State.pathApart_iff : s.pathApart v = true ↔ s.slotsDisjoint v := by
  have hlist : s.pathApart v = true ↔ s.slotsApart v Level.walked := by
    simp only [State.pathApart, Bool.and_eq_true, State.slotsApart, Level.walked, List.pairwise_cons, List.mem_cons,
      List.not_mem_nil, or_false, forall_eq_or_imp, forall_eq, false_implies, implies_true, List.Pairwise.nil, and_true,
      and_assoc]
  rw [hlist]
  refine ⟨fun h l l' hne => ?_, fun h => h.slotsApart Level.nodup_walked⟩
  have hsymm : Std.Symm fun l l' => apart (s.pathSlot v l) 8 (s.pathSlot v l') 8 = true := ⟨fun _ _ => apart_symm⟩
  exact h.forall l.mem_walked l'.mem_walked hne

theorem State.interiorExists_iff :
    s.interiorExists v = true ↔ ∀ l, l ≠ .l1 → isUnused (s.pathEntry v l) = false := by
  simp only [State.interiorExists, Bool.and_eq_true, Bool.not_eq_true']
  constructor
  · intro ⟨⟨h4, h3⟩, h2⟩ l hl
    cases l with
    | l1 => exact absurd rfl hl
    | l2 => exact h2
    | l3 => exact h3
    | l4 => exact h4
  · intro h
    exact ⟨⟨h _ (by decide), h _ (by decide)⟩, h _ (by decide)⟩

theorem State.pathReady_iff :
    s.pathReady v = true ↔ s.pathInMemory v = true ∧ (∀ l, l ≠ .l1 → isUnused (s.pathEntry v l) = false) ∧
      s.slotsDisjoint v := by
  rw [State.pathReady, Bool.and_eq_true, Bool.and_eq_true, State.interiorExists_iff, State.pathApart_iff, and_assoc]

/-- Where the entries above a level point to the same tables, the path comes to the same table there. -/
theorem State.pathTableAt_congr (hroot : t.ptRoot = s.ptRoot) (l : Level)
    (h : ∀ l' ∈ l.above, physAddr (t.mem.readWord (s.pathSlot v l')) = physAddr (s.pathEntry v l')) :
    t.pathTableAt v l = s.pathTableAt v l := by
  induction l using Level.walkInduction with
  | top => exact hroot
  | below l l' habove _ ih =>
    rw [habove, List.forall_mem_append, List.forall_mem_singleton] at h
    obtain ⟨habove', hlast⟩ := h
    rw [State.pathTableAt_below habove, State.pathTableAt_below habove, ← hlast, State.pathEntry, State.pathSlot,
      ih habove', State.pathSlot]

theorem State.pathSlot_congr (hroot : t.ptRoot = s.ptRoot)
    (h : ∀ l', l' ≠ .l1 → physAddr (t.mem.readWord (s.pathSlot v l')) = physAddr (s.pathEntry v l')) (l : Level) :
    t.pathSlot v l = s.pathSlot v l := by
  rw [State.pathSlot, State.pathSlot,
    State.pathTableAt_congr hroot l fun l' hl' => h l' (Level.ne_l1_of_mem_above hl')]

/-! #### What the map writes (R76, R80) -/

/-- The entry a map by existing tables writes at each level: the refreshed entry, and at level 1 the mapping. -/
def State.mappedEntry (s : State) (v : VirtAddr) (p : PhysAddr) (f : FlagWord) : Level → Pte
  | .l1 => newPageEntry p f
  | l => s.pathEntry v l ||| 3

/-- Memory after a map by existing tables: four writes, top first. -/
def State.mappedMem (s : State) (v : VirtAddr) (p : PhysAddr) (f : FlagWord) : Memory :=
  Level.walked.foldl (fun m l => m.writeWord (s.pathSlot v l) (s.mappedEntry v p f l)) s.mem

/-- The state such a map leaves, its response aside. -/
def State.mapped (s : State) (v : VirtAddr) (p : PhysAddr) (f : FlagWord) : State := s.withMem (s.mappedMem v p f)

@[simp] theorem State.mapped_mem (s : State) (v : VirtAddr) (p : PhysAddr) (f : FlagWord) :
    (s.mapped v p f).mem = s.mappedMem v p f := rfl

theorem State.mappedEntry_interior (h : l ≠ .l1) : s.mappedEntry v p f l = s.pathEntry v l ||| 3 := by
  cases l with
  | l1 => exact absurd rfl h
  | l2 | l3 | l4 => rfl

theorem mapOne_of_descend_some {table : PhysAddr} (h : descend v interiorLevels s.ptRoot s = .done (some table) u)
    (hm : u.inMemory (slot table (index v .l1)) 8 = true) : mapOne v p f s =
      .done .ok (u.withMem (u.mem.writeWord (slot table (index v .l1)) (newPageEntry p f))) := by
  simp only [mapOne, h, Eff.bind_done, memWrite_inMemory _ hm]

theorem exec_ptMap_of_mapOne {st : Status} (hroot : s.ptValid = true) (h : mapOne v p f s = .done st u) :
    exec (.ptMap v p f) s = .next (u.respond st 0 0) := by
  rw [exec_ptMap_of_root hroot, h]
  rfl

theorem mapOne_ready (p : PhysAddr) (f : FlagWord) (h : s.pathReady v = true) :
    mapOne v p f s = .done .ok (s.mapped v p f) := by
  obtain ⟨hin, hused, hapart⟩ := State.pathReady_iff.1 h
  obtain ⟨-, hslots⟩ := State.pathInMemory_iff.1 hin
  have hdescend : descend v interiorLevels s.ptRoot s =
      .done (some (s.pathTableAt v .l1)) (s.withMem (s.refreshedAbove v .l1)) :=
    descend_reached v s .l1 (fun l _ => hslots l) (fun l hl => hused l (Level.mem_interiorLevels_iff.1 hl))
      (hapart.slotsApart (by decide))
  have hslot : (s.withMem (s.refreshedAbove v .l1)).inMemory (slot (s.pathTableAt v .l1) (index v .l1)) 8 = true :=
    hslots .l1
  rw [mapOne_of_descend_some hdescend hslot]
  rfl

theorem exec_ptMap_ready (p : PhysAddr) (f : FlagWord) (h : s.pathReady v = true) :
    exec (.ptMap v p f) s = .next ((s.mapped v p f).respond .ok 0 0) :=
  exec_ptMap_of_mapOne (State.pathInMemory_iff.1 (State.pathReady_iff.1 h).1).1 (mapOne_ready p f h)

/-- Settles O38: the descent refreshes the three entries, and the level-1 slot is written. -/
theorem ptMapOnExistingTablesMakesFourWrites : Obligations.PtMapOnExistingTablesMakesFourWrites :=
  fun _ p f _ h => ⟨_, _, _, _, rfl, rfl, rfl, rfl, exec_ptMap_ready p f h⟩

/-! #### What the map's memory holds -/

/-- Words written at slots apart are all there to be read. -/
theorem readWord_foldl_writeWord_mem {ls : List Level} {slotAt : Level → PhysAddr} {w : Level → Word}
    (h : ls.Pairwise fun l l' => apart (slotAt l') 8 (slotAt l) 8 = true) (hl : l ∈ ls) (m : Memory) :
    (ls.foldl (fun m l => m.writeWord (slotAt l) (w l)) m).readWord (slotAt l) = w l := by
  induction ls generalizing m with
  | nil => cases hl
  | cons a ls ih =>
    rw [List.pairwise_cons] at h
    obtain ⟨ha, hls⟩ := h
    rw [List.foldl_cons]
    rcases List.mem_cons.1 hl with rfl | hl
    · rw [readWord_foldl_writeWord_apart ha, Memory.readWord_writeWord_same]
    · exact ih hls hl _

theorem read_foldl_writeWord_outside {ls : List Level} {slotAt : Level → PhysAddr} {w : Level → Word} {x : Nat}
    (h : ∀ l ∈ ls, outside x (slotAt l) 8) (m : Memory) :
    Memory.read (ls.foldl (fun m l => m.writeWord (slotAt l) (w l)) m) x = Memory.read m x := by
  induction ls generalizing m with
  | nil => rfl
  | cons a ls ih =>
    rw [List.forall_mem_cons] at h
    obtain ⟨ha, hls⟩ := h
    rw [List.foldl_cons, ih hls, Memory.read_writeWord_outside _ _ _ ha]

theorem wf_foldl_writeWord (ls : List Level) (slotAt : Level → PhysAddr) (w : Level → Word) {m : Memory}
    (h : m.wf = true) : (ls.foldl (fun m l => m.writeWord (slotAt l) (w l)) m).wf = true := by
  induction ls generalizing m with
  | nil => exact h
  | cons a ls ih => exact ih (Memory.wf_writeWord _ _ _ h)

theorem State.mappedMem_readWord_pathSlot (h : s.slotsDisjoint v) (l : Level) :
    (s.mappedMem v p f).readWord (s.pathSlot v l) = s.mappedEntry v p f l := by
  have happart : Level.walked.Pairwise fun l l' => apart (s.pathSlot v l') 8 (s.pathSlot v l) 8 = true :=
    Level.nodup_walked.imp fun hne => h _ _ hne.symm
  rw [State.mappedMem, readWord_foldl_writeWord_mem happart l.mem_walked]

theorem State.mappedMem_readWord_apart {a : PhysAddr} (h : ∀ l, apart (s.pathSlot v l) 8 a 8 = true) :
    (s.mappedMem v p f).readWord a = s.mem.readWord a := by
  rw [State.mappedMem, readWord_foldl_writeWord_apart fun l _ => h l]

theorem State.physAddr_mappedEntry (h : l ≠ .l1) : physAddr (s.mappedEntry v p f l) = physAddr (s.pathEntry v l) := by
  rw [State.mappedEntry_interior h, physAddr_or_three]

/-- A map leaves its own tables where they are. -/
theorem State.mapped_pathTableAt (h : s.slotsDisjoint v) (l : Level) :
    (s.mapped v p f).pathTableAt v l = s.pathTableAt v l := by
  refine State.pathTableAt_congr (s := s) (t := s.mapped v p f) rfl l fun l' hl' => ?_
  rw [State.mapped_mem, State.mappedMem_readWord_pathSlot h, State.physAddr_mappedEntry (Level.ne_l1_of_mem_above hl')]

theorem State.mapped_pathSlot (h : s.slotsDisjoint v) (l : Level) :
    (s.mapped v p f).pathSlot v l = s.pathSlot v l := by
  rw [State.pathSlot, State.mapped_pathTableAt h, State.pathSlot]

theorem State.mapped_pathEntry (h : s.slotsDisjoint v) (l : Level) :
    (s.mapped v p f).pathEntry v l = s.mappedEntry v p f l := by
  rw [State.pathEntry, State.mapped_pathSlot h, State.mapped_mem, State.mappedMem_readWord_pathSlot h]

theorem State.mapped_pathReady (h : s.pathReady v = true) : (s.mapped v p f).pathReady v = true := by
  obtain ⟨hin, -, hapart⟩ := State.pathReady_iff.1 h
  obtain ⟨hroot, hslots⟩ := State.pathInMemory_iff.1 hin
  refine State.pathReady_iff.2 ⟨State.pathInMemory_iff.2 ⟨hroot, fun l => ?_⟩, fun l hl => ?_, fun l l' hne => ?_⟩
  · rw [State.mapped_pathSlot hapart]
    exact hslots l
  · rw [State.mapped_pathEntry hapart, State.mappedEntry_interior hl]
    exact isUnused_or_three _
  · rw [State.mapped_pathSlot hapart, State.mapped_pathSlot hapart]
    exact hapart l l' hne

theorem State.mapped_pathInMemory (h : s.pathReady v = true) : (s.mapped v p f).pathInMemory v = true :=
  (State.pathReady_iff.1 (State.mapped_pathReady h)).1

/-! #### Unmapping after it (R88 (b)) -/

/-- Storing the zero word drops the listed bytes of the word: it is a range zeroed. -/
theorem Memory.writeBytes_replicate_zero (m : Memory) (a n : Nat) :
    m.writeBytes a (List.replicate n 0) = m.zeroRange a n := by
  induction n generalizing m a with
  | zero =>
    rw [Memory.zeroRange, List.filter_eq_self.2 fun c _ => ?_]
    · rfl
    · simp only [Bool.or_eq_true, decide_eq_true_eq]
      omega
  | succ n ih =>
    have hzero : Memory.write m a 0 = m.erase a := if_pos rfl
    rw [List.replicate_succ, Memory.writeBytes, hzero, ih, Memory.zeroRange, Memory.zeroRange, Memory.erase,
      List.filter_filter]
    refine List.filter_congr fun c _ => ?_
    rw [Bool.eq_iff_iff]
    simp only [Bool.and_eq_true, Bool.or_eq_true, decide_eq_true_eq, bne_iff_ne]
    omega

theorem Memory.writeWord_zero (m : Memory) (a : PhysAddr) : m.writeWord a 0 = m.zeroRange a.val.toNat 8 :=
  Memory.writeBytes_replicate_zero m a.val.toNat 8

/-- A write to the level-1 slot leaves the path where it is. -/
theorem State.pathSlot_writeWord_l1 (h : s.slotsDisjoint v) (w : Word) (l : Level) :
    (s.withMem (s.mem.writeWord (s.pathSlot v .l1) w)).pathSlot v l = s.pathSlot v l :=
  State.pathSlot_congr (s := s) (t := s.withMem (s.mem.writeWord (s.pathSlot v .l1) w)) rfl (fun l' hl' =>
    congrArg physAddr (Memory.readWord_writeWord_of_apart w (h .l1 l' hl'.symm))) l

/-- The page cleared: the state an unmap leaves, its response aside. -/
def State.unmapped (s : State) (v : VirtAddr) : State := s.withMem (s.mem.writeWord (s.pathSlot v .l1) 0)

theorem State.unmapped_pathSlot (h : s.slotsDisjoint v) (l : Level) : (s.unmapped v).pathSlot v l = s.pathSlot v l :=
  State.pathSlot_writeWord_l1 h 0 l

theorem State.unmapped_pathEntry_l1 (h : s.slotsDisjoint v) : (s.unmapped v).pathEntry v .l1 = 0 := by
  rw [State.pathEntry, State.unmapped_pathSlot h, State.unmapped, State.withMem_mem,
    Memory.readWord_writeWord_same]

theorem State.unmapped_unmapped (h : s.slotsDisjoint v) : (s.unmapped v).unmapped v = s.unmapped v := by
  rw [State.unmapped, State.unmapped, State.pathSlot_writeWord_l1 h, State.withMem_mem, State.withMem_withMem,
    Memory.writeWord_zero, Memory.writeWord_zero, Memory.zeroRange_zeroRange]

theorem State.unmapped_pathInMemory (hin : s.pathInMemory v = true) (h : s.slotsDisjoint v) :
    (s.unmapped v).pathInMemory v = true := by
  obtain ⟨hroot, hslots⟩ := State.pathInMemory_iff.1 hin
  refine State.pathInMemory_iff.2 ⟨hroot, fun l => ?_⟩
  rw [State.unmapped_pathSlot h]
  exact hslots l

theorem exec_ptUnmap_inMemory (h : s.pathInMemory v = true) :
    exec (.ptUnmap v) s = .next ((s.unmapped v).respond .ok 0 0) := (lookupsUse_pathSlot h).1

/-- R11: a command after another's response is the command. -/
theorem exec_respond (i : Instr) (s : State) (st : Status) (r0 r1 : Word) :
    exec i (s.respond st r0 r1) = exec i s := earlierResponsesAreNeverRead i s _

@[simp] theorem State.respond_respond (s : State) (st st' : Status) (r0 r1 r0' r1' : Word) :
    (s.respond st r0 r1).respond st' r0' r1' = s.respond st' r0' r1' := rfl

theorem exec_ptGetL1_inMemory (h : s.pathInMemory v = true) :
    exec (.ptGetL1 v) s = .next (s.respond .ok (s.pathEntry v .l1) (s.pathSlot v .l1).val) :=
  (lookupsUse_pathSlot h).2.1

theorem exec_ptRetrieve_inMemory (h : s.pathInMemory v = true) :
    exec (.ptRetrieve v) s = .next (s.respond .ok (physAddr (s.pathEntry v .l1)).val 0) :=
  (lookupsUse_pathSlot h).2.2

/-- Settles O44: the map leaves the path where it is, and so does the unmap, which stores zero at its end. -/
theorem unmapAfterMapIsUnusedAndIdempotent : Obligations.UnmapAfterMapIsUnusedAndIdempotent := by
  intro v p f s t u h ht hu
  obtain ⟨-, -, hapart⟩ := State.pathReady_iff.1 h
  obtain ⟨hin, -, hapart'⟩ := State.pathReady_iff.1 (State.mapped_pathReady (p := p) (f := f) h)
  cases (exec_ptMap_ready p f h).symm.trans ht
  rw [exec_respond, exec_ptUnmap_inMemory hin] at hu
  cases hu
  have hend := State.unmapped_pathInMemory hin hapart'
  rw [exec_respond, exec_respond, exec_ptGetL1_inMemory hend, exec_ptUnmap_inMemory hend,
    State.unmapped_unmapped hapart', State.unmapped_pathEntry_l1 hapart', State.unmapped_pathSlot hapart',
    State.mapped_pathSlot hapart]
  exact ⟨rfl, rfl⟩

/-! #### Mapping again (R88 (c)) -/

theorem State.mappedMem_wf (h : s.mem.wf = true) : (s.mappedMem v p f).wf = true :=
  wf_foldl_writeWord Level.walked (s.pathSlot v) (s.mappedEntry v p f) h

theorem State.mappedMem_read_outside {x : Nat} (h : ∀ l, outside x (s.pathSlot v l) 8) :
    Memory.read (s.mappedMem v p f) x = Memory.read s.mem x := by
  rw [State.mappedMem, read_foldl_writeWord_outside fun l _ => h l]

/-- An entry refreshed already is refreshed to itself, so a second map writes what it would have written first. -/
theorem State.mapped_mappedEntry (h : s.slotsDisjoint v) (l : Level) :
    (s.mapped v p f).mappedEntry v q g l = s.mappedEntry v q g l := by
  by_cases hl : l = .l1
  · rw [hl]
    rfl
  · rw [State.mappedEntry_interior hl, State.mapped_pathEntry h, State.mappedEntry_interior hl,
      State.mappedEntry_interior hl, BitVec.or_assoc, BitVec.or_self]

/-- The last map wins: its memory is as if the first had never been made. -/
theorem State.mapped_mappedMem (hwf : s.mem.wf = true) (h : s.pathReady v = true) :
    (s.mapped v p f).mappedMem v q g = s.mappedMem v q g := by
  obtain ⟨-, -, hapart⟩ := State.pathReady_iff.1 h
  obtain ⟨-, -, hapart'⟩ := State.pathReady_iff.1 (State.mapped_pathReady (p := p) (f := f) h)
  have hslot := State.mapped_pathSlot (p := p) (f := f) hapart
  have hwf' : (s.mapped v p f).mem.wf = true := State.mappedMem_wf hwf
  refine Memory.ext_of_wf (State.mappedMem_wf hwf') (State.mappedMem_wf hwf) fun x => ?_
  by_cases hx : ∀ l, outside x (s.pathSlot v l) 8
  · rw [State.mappedMem_read_outside fun l => (hslot l).symm ▸ hx l, State.mapped_mem,
      State.mappedMem_read_outside hx, State.mappedMem_read_outside hx]
  · obtain ⟨l, hl⟩ := not_forall.1 hx
    refine Memory.read_eq_of_readWord_eq (a := s.pathSlot v l) ?_ hl
    have hnew := State.mappedMem_readWord_pathSlot (p := q) (f := g) hapart' l
    rw [hslot l, State.mapped_mappedEntry hapart] at hnew
    rw [hnew, State.mappedMem_readWord_pathSlot hapart]

/-- Settles O45: both maps go by existing tables, and the memories the second leaves, with the first and without it, are
one. -/
theorem remapIsLastWriteWins : Obligations.RemapIsLastWriteWins := by
  intro v p q f g s t h hwf ht
  obtain ⟨-, -, hapart⟩ := State.pathReady_iff.1 h
  cases (exec_ptMap_ready p f h).symm.trans ht
  have hagain : (s.mapped v p f).mapped v q g = s.mapped v q g := by
    rw [State.mapped, State.mapped_mappedMem hwf h]
    rfl
  have hin := State.mapped_pathInMemory (p := q) (f := g) h
  refine ⟨(s.mapped v q g).respond .ok 0 0, ?_, rfl, rfl, exec_ptMap_ready q g h, ?_, ?_⟩
  · rw [exec_respond, exec_ptMap_ready q g (State.mapped_pathReady h), hagain]
  · rw [exec_respond, exec_ptRetrieve_inMemory hin, State.mapped_pathEntry hapart, State.mappedEntry,
      physAddr_newPageEntry]
    rfl
  · rw [exec_respond, exec_ptGetL1_inMemory hin, State.mapped_pathEntry hapart, State.mapped_pathSlot hapart]
    rfl

/-! #### Other pages (R88 (e)) -/

/-- The slot of `w` at a level is shared with `v`, above level 1, or apart from all of `v`'s. -/
theorem State.pathsSeparate.shared_or_apart (h : s.pathsSeparate v w) (l : Level) :
    (l ≠ .l1 ∧ s.pathSlot v l = s.pathSlot w l) ∨ ∀ l', apart (s.pathSlot v l') 8 (s.pathSlot w l) 8 = true := by
  rcases h l l with ⟨-, hl, hshared⟩ | hself
  · exact .inl ⟨hl, hshared⟩
  · refine .inr fun l' => ?_
    rcases h l' l with ⟨rfl, -⟩ | hapart
    · exact hself
    · exact hapart

/-- A map refreshes the entries the other page's path shares and leaves the others, so that path stays where it is. -/
theorem State.mapped_pathSlot_other (hapart : s.slotsDisjoint v) (h : s.pathsSeparate v w) (l : Level) :
    (s.mapped v p f).pathSlot w l = s.pathSlot w l := by
  refine State.pathSlot_congr (s := s) (t := s.mapped v p f) rfl (fun l' _ => ?_) l
  rw [State.mapped_mem]
  rcases h.shared_or_apart l' with ⟨hl', hshared⟩ | hother
  · rw [← hshared, State.mappedMem_readWord_pathSlot hapart, State.physAddr_mappedEntry hl', State.pathEntry, hshared,
      State.pathEntry]
  · rw [State.mappedMem_readWord_apart hother, State.pathEntry]

/-- Settles O46: the other page's path stays where it is, and the slot at its end is apart from every write. -/
theorem mapLeavesOtherPagesAlone : Obligations.MapLeavesOtherPagesAlone := by
  intro v w p f s t h hw hsep ht
  obtain ⟨-, -, hapart⟩ := State.pathReady_iff.1 h
  obtain ⟨hroot, hslots⟩ := State.pathInMemory_iff.1 hw
  have hslot := State.mapped_pathSlot_other (p := p) (f := f) hapart hsep
  have hin : (s.mapped v p f).pathInMemory w = true :=
    State.pathInMemory_iff.2 ⟨hroot, fun l => by rw [hslot]; exact hslots l⟩
  have hend : (s.mapped v p f).pathEntry w .l1 = s.pathEntry w .l1 := by
    have hother := (hsep.shared_or_apart .l1).resolve_left fun hl => hl.1 rfl
    rw [State.pathEntry, hslot, State.mapped_mem, State.mappedMem_readWord_apart hother, State.pathEntry]
  cases (exec_ptMap_ready p f h).symm.trans ht
  rw [exec_respond, exec_ptGetL1_inMemory hin, hend, hslot, State.respond_respond]

/-! #### What the consumer reads (R87) -/

theorem isPresent_newPageEntry (p : PhysAddr) (f : FlagWord) : isPresent (newPageEntry p f) = f.getLsbD 0 := by
  have haddr : addrMask.getLsbD 0 = false := rfl
  have hflag : flagMask.getLsbD 0 = true := rfl
  rw [isPresent, newPageEntry, BitVec.getLsbD_or, BitVec.getLsbD_and, BitVec.getLsbD_and, haddr, hflag, Bool.and_false,
    Bool.false_or, Bool.and_true]

/-- The consumer reads no register but the root it starts from. -/
theorem consumerWalk_congr (hmem : s.mem = t.mem) (hp : s.params = t.params) (ls : List Level) (r : PhysAddr) :
    consumerWalk v s ls r = consumerWalk v t ls r := by
  induction ls generalizing r with
  | nil => rfl
  | cons l ls ih => rw [consumerWalk, consumerWalk, State.inMemory_congr hp, hmem, ih]

/-- The consumer's descent of a tree whose entries for `v` are all present is the path. -/
theorem consumerWalk_of_present (hin : ∀ l, s.inMemory (s.pathSlot v l) 8 = true)
    (h : ∀ l, isPresent (s.pathEntry v l) = true) :
    consumerWalk v s Level.walked s.ptRoot = some (physAddr (s.pathEntry v .l1)) := by
  have hlevel (l : Level) (ls : List Level) :
      consumerWalk v s (l :: ls) (s.pathTableAt v l) = consumerWalk v s ls (physAddr (s.pathEntry v l)) := by
    rw [consumerWalk]
    exact if_pos (Bool.and_eq_true_iff.2 ⟨hin l, h l⟩)
  have h3 := State.pathTableAt_below (s := s) (v := v) (l := .l4) (l' := .l3) rfl
  have h2 := State.pathTableAt_below (s := s) (v := v) (l := .l3) (l' := .l2) rfl
  have h1 := State.pathTableAt_below (s := s) (v := v) (l := .l2) (l' := .l1) rfl
  calc consumerWalk v s Level.walked s.ptRoot
    _ = consumerWalk v s [.l3, .l2, .l1] (s.pathTableAt v .l3) := by rw [h3]; exact hlevel .l4 _
    _ = consumerWalk v s [.l2, .l1] (s.pathTableAt v .l2) := by rw [h2, hlevel]
    _ = consumerWalk v s [.l1] (s.pathTableAt v .l1) := by rw [h1, hlevel]
    _ = some (physAddr (s.pathEntry v .l1)) := by rw [hlevel, consumerWalk]

/-- Settles O53: the three refreshed entries are present, the mapping is where its flags say so, and `PT_ENABLE` makes
the path the consumer's. -/
theorem enabledMappingIsWhatTheConsumerReads : Obligations.EnabledMappingIsWhatTheConsumerReads := by
  intro v p f s t u h hf ht hu
  obtain ⟨-, -, hapart⟩ := State.pathReady_iff.1 h
  obtain ⟨hroot, hin⟩ := State.pathInMemory_iff.1 (State.mapped_pathInMemory (p := p) (f := f) h)
  have hentry := State.mapped_pathEntry (p := p) (f := f) hapart
  have hpresent (l : Level) : isPresent ((s.mapped v p f).pathEntry v l) = true := by
    rw [hentry]
    by_cases hl : l = .l1
    · rw [hl, State.mappedEntry, isPresent_newPageEntry, hf]
    · rw [State.mappedEntry_interior hl, isPresent_or_three]
  have hwalk := consumerWalk_of_present hin hpresent
  rw [hentry, State.mappedEntry, physAddr_newPageEntry] at hwalk
  cases (exec_ptMap_ready p f h).symm.trans ht
  rw [exec_respond, exec_ptEnable_of_root hroot] at hu
  cases hu
  refine congrArg (Option.map fun frame => frame.add (offset v)) ((consumerWalk_congr ?_ ?_ _ _).trans hwalk) <;> rfl

end Sys2Proof.Machine

/-! ### Regions -/

namespace Sys2Proof.Machine

variable {v w : VirtAddr} {p : PhysAddr} {f : FlagWord} {size : Word} {s t u : State} {l : Level} {n k : Nat}

/-! #### The pages of a region (R84, R85) -/

/-- The page count is the size in pages, rounded up. -/
theorem toNat_pageCount (size : Word) : (pageCount size).toNat = (size.toNat + 4095) / 4096 := by
  have hlt := size.isLt
  have hlow : (size &&& 0xFFF).toNat = size.toNat % 4096 := Nat.and_two_pow_sub_one_eq_mod _ 12
  have hhigh : (size >>> 12).toNat = size.toNat / 4096 := by
    rw [BitVec.toNat_ushiftRight, Nat.shiftRight_eq_div_pow]
  have hwhole : size &&& 0xFFF = 0 ↔ size.toNat % 4096 = 0 := by
    rw [← hlow, BitVec.toNat_eq]
    rfl
  have h0 : (0 : Word).toNat = 0 := rfl
  have h1 : (1 : Word).toNat = 1 := rfl
  rw [pageCount, BitVec.toNat_add, hhigh]
  simp only [hwhole]
  split <;> omega

/-- What is left of a region after its first page. -/
def sizeAfterPage (size : Word) : Word := if size.toNat ≤ 4096 then 0 else size - 4096

theorem toNat_pageCount_succ (h : size ≠ 0) :
    (pageCount size).toNat = (pageCount (sizeAfterPage size)).toNat + 1 := by
  have hpos : size.toNat ≠ 0 := fun h0 => h (BitVec.eq_of_toNat_eq h0)
  have h0 : (0 : Word).toNat = 0 := rfl
  have hpage : (4096 : Word).toNat = 4096 := rfl
  rw [toNat_pageCount, toNat_pageCount, sizeAfterPage]
  split
  · omega
  · next hlong =>
    rw [BitVec.toNat_sub_of_le (by rw [BitVec.le_def]; omega)]
    omega

theorem VirtAddr.add_page_add_pageOffset (v : VirtAddr) (k : Nat) :
    (v.add 4096).add (pageOffset k) = v.add (pageOffset (k + 1)) :=
  VirtAddr.ext (add_frame_add_frames v.val k)

theorem PhysAddr.add_page_add_pageOffset (p : PhysAddr) (k : Nat) :
    (p.add 4096).add (pageOffset k) = p.add (pageOffset (k + 1)) :=
  PhysAddr.ext (add_frame_add_frames p.val k)

/-! #### One page, then the rest of the region -/

/-- One more page in the count a region command answers with. -/
def countPage (r : Response) (s : State) : Eff Response := .done { r with r0 := r.r0 + 1 } s

/-- The loop that has done a page more is the loop of the rest of the region, with one page more in its count. -/
theorem mapPages_shift (v : VirtAddr) (p : PhysAddr) (f : FlagWord) (n k : Nat) (s : State) :
    mapPages v p f n (k + 1) s = (mapPages (v.add 4096) (p.add 4096) f n k s).bind countPage := by
  have hcount : BitVec.ofNat 64 (k + 1) = BitVec.ofNat 64 k + 1 := BitVec.ofNat_add k 1
  induction n generalizing k s with
  | zero => rw [mapPages, mapPages, Eff.bind_done, countPage, hcount]
  | succ n ih =>
    rw [mapPages, mapPages, Eff.bind_assoc, VirtAddr.add_page_add_pageOffset, PhysAddr.add_page_add_pageOffset]
    congr 1
    funext st u
    split
    · rw [Eff.bind_done, countPage, hcount]
    · exact ih (k + 1) u (BitVec.ofNat_add (k + 1) 1)

theorem mapPages_succ (v : VirtAddr) (p : PhysAddr) (f : FlagWord) (n : Nat) (s : State) :
    mapPages v p f (n + 1) 0 s = (mapOne v p f s).bind fun st s =>
      if st = .none then .done ⟨.none, 0, 0⟩ s else (mapPages (v.add 4096) (p.add 4096) f n 0 s).bind countPage := by
  rw [mapPages, VirtAddr.add_pageOffset_zero, PhysAddr.add_pageOffset_zero]
  simp only [mapPages_shift]
  rfl

theorem unmapPages_shift (v : VirtAddr) (n k : Nat) (s : State) :
    unmapPages v n (k + 1) s = (unmapPages (v.add 4096) n k s).bind countPage := by
  induction n generalizing k s with
  | zero =>
    rw [unmapPages, unmapPages, Eff.bind_done, countPage, BitVec.ofNat_add k 1]
    rfl
  | succ n ih =>
    rw [unmapPages, unmapPages, Eff.bind_assoc, VirtAddr.add_page_add_pageOffset]
    congr 1
    funext _ u
    exact ih (k + 1) u

theorem unmapPages_succ (v : VirtAddr) (n : Nat) (s : State) :
    unmapPages v (n + 1) 0 s = (unmapOne v s).bind fun _ s => (unmapPages (v.add 4096) n 0 s).bind countPage := by
  rw [unmapPages, VirtAddr.add_pageOffset_zero]
  simp only [unmapPages_shift]

/-- R84, R101: a region map that yields an answer yields `OK` or `NONE`. -/
theorem mapPages_ne_fatal {r : Response} (h : mapPages v p f n k s = .done r u) : r.status ≠ .fatal := by
  induction n generalizing k s with
  | zero =>
    cases h
    nofun
  | succ n ih =>
    obtain ⟨st, t, -, hrest⟩ := Eff.bind_eq_done.1 h
    split at hrest
    · cases hrest
      nofun
    · exact ih hrest

theorem unmapPages_ne_fatal {r : Response} (h : unmapPages v n k s = .done r u) : r.status ≠ .fatal := by
  induction n generalizing k s with
  | zero =>
    cases h
    nofun
  | succ n ih =>
    obtain ⟨_, t, -, hrest⟩ := Eff.bind_eq_done.1 h
    exact ih hrest

/-- A command that counts one page more than `e`: its ending is that of `e`, with one more in an answer's count. -/
theorem Eff.finish_countPage {e : Eff Response} (hne : ∀ r t, e = .done r t → r.status ≠ .fatal)
    (h : e.finish = .next u) :
    ∃ r, u.response = some r ∧ (e.bind countPage).finish =
      .next (if r.status = .fatal then u else { u with response := some { r with r0 := r.r0 + 1 } }) := by
  rcases Eff.finish_eq_next.1 h with ⟨r, t, rfl, rfl⟩ | ⟨c, t, rfl, rfl⟩
  · refine ⟨r, rfl, ?_⟩
    rw [if_neg (hne r t rfl)]
    rfl
  · exact ⟨_, rfl, by rw [if_pos rfl]; rfl⟩

theorem ptValid_of_exec {i : Instr} (hi : needsRoot i = true) (h : exec i s = .next t) : t.ptValid = s.ptValid := by
  obtain ⟨-, -, -, -, hroot, -⟩ := registersAreWrittenByTheirCommandsOnly i s t h
  rcases hroot with ⟨-, hvalid⟩ | rfl | ⟨r, rfl⟩
  · exact hvalid
  · cases hi
  · cases hi

/-- Settles O49: without a root both commands raise alike; with one, the loop's first round is the map of the first
page, and its other rounds are the loop of the rest. -/
theorem regionMapIsOneMapThenTheRest : Obligations.RegionMapIsOneMapThenTheRest := by
  intro v p size f s
  refine ⟨fun hroot => by rw [exec_ptMapRegion_of_root hroot]; rfl, fun hsize t ht => ?_⟩
  have hvalid := ptValid_of_exec rfl ht
  cases hroot : s.ptValid with
  | false =>
    cases (walkerCommandsNeedARoot (.ptMap v p f) s rfl hroot).symm.trans ht
    exact ⟨fun _ => walkerCommandsNeedARoot (.ptMapRegion v p size f) s rfl hroot, nofun⟩
  | true =>
    rw [exec_ptMap_of_root hroot] at ht
    rw [exec_ptMapRegion_of_root hroot, toNat_pageCount_succ hsize, mapPages_succ]
    cases hone : mapOne v p f s with
    | hung => cases hone ▸ ht
    | raised c u =>
      cases hone ▸ ht
      exact ⟨fun _ => rfl, nofun⟩
    | done st u =>
      cases hone ▸ ht
      rcases status_of_mapOne_eq_done hone with rfl | rfl
      · exact ⟨fun _ => rfl, nofun⟩
      · refine ⟨fun hok => absurd rfl hok, fun _ u' hu' => ?_⟩
        rw [exec_respond, exec_ptMapRegion_of_root (s := u) (hvalid.trans hroot)] at hu'
        rw [Eff.bind_done, if_neg (by decide)]
        exact Eff.finish_countPage (fun _ _ => mapPages_ne_fatal) hu'

/-- Settles O50, as O49: an unmap has no `NONE` to stop at. -/
theorem regionUnmapIsOneUnmapThenTheRest : Obligations.RegionUnmapIsOneUnmapThenTheRest := by
  intro v size s
  refine ⟨fun hroot => by rw [exec_ptUnmapRegion_of_root hroot]; rfl, fun hsize t ht => ?_⟩
  have hvalid := ptValid_of_exec rfl ht
  cases hroot : s.ptValid with
  | false =>
    cases (walkerCommandsNeedARoot (.ptUnmap v) s rfl hroot).symm.trans ht
    exact ⟨fun _ => walkerCommandsNeedARoot (.ptUnmapRegion v size) s rfl hroot, nofun⟩
  | true =>
    rw [exec_ptUnmap_of_root hroot] at ht
    rw [exec_ptUnmapRegion_of_root hroot, toNat_pageCount_succ hsize, unmapPages_succ]
    cases hone : unmapOne v s with
    | hung => cases hone ▸ ht
    | raised c u =>
      cases hone ▸ ht
      exact ⟨fun _ => rfl, nofun⟩
    | done st u =>
      cases hone ▸ ht
      refine ⟨fun hok => absurd rfl hok, fun _ u' hu' => ?_⟩
      rw [exec_respond, exec_ptUnmapRegion_of_root (s := u) (hvalid.trans hroot)] at hu'
      exact Eff.finish_countPage (fun _ _ => unmapPages_ne_fatal) hu'

/-! #### Regions over memory that holds every table (R28, R85) -/

/-- The slots of a table whose frame lies in memory lie in memory. -/
theorem State.slot_inMemory {a : PhysAddr} (h : s.inMemory a 4096 = true) (i : BitVec 9) :
    s.inMemory (slot a i) 8 = true := by
  rw [State.inMemory_iff] at h
  have hi : i.toNat < 512 := i.isLt
  have hslot := toNat_slot (t := a) (by omega) i
  rw [State.inMemory_iff]
  omega

/-- R28: an entry's address field names a frame below 2^52. -/
theorem physAddr_toNat_le (e : Pte) : (physAddr e).val.toNat + 4096 ≤ 2 ^ 52 := by
  have hle : (e &&& addrMask).toNat ≤ addrMask.toNat := by
    rw [BitVec.toNat_and]
    exact Nat.and_le_right
  have hmask : addrMask.toNat + 4096 = 2 ^ 52 := rfl
  change (e &&& addrMask).toNat + 4096 ≤ 2 ^ 52
  omega

/-- The manager has a root, and its frame and every frame an entry can name lie in memory. -/
structure State.HoldsAllTables (s : State) : Prop where
  rootValid : s.ptValid = true
  reach : 2 ^ 52 ≤ s.params.memSize
  root : s.inMemory s.ptRoot 4096 = true

theorem State.HoldsAllTables.withMem (h : s.HoldsAllTables) (m : Memory) : (s.withMem m).HoldsAllTables :=
  ⟨h.rootValid, h.reach, h.root⟩

theorem State.HoldsAllTables.physAddr_inMemory (h : s.HoldsAllTables) (e : Pte) :
    s.inMemory (physAddr e) 4096 = true := by
  have hfield := physAddr_toNat_le e
  have hreach := h.reach
  rw [State.inMemory_iff]
  omega

theorem State.HoldsAllTables.pathInMemory (h : s.HoldsAllTables) (v : VirtAddr) : s.pathInMemory v = true := by
  refine State.pathInMemory_iff.2 ⟨h.rootValid, fun l => State.slot_inMemory ?_ _⟩
  cases l with
  | l4 => exact h.root
  | l3 | l2 | l1 => exact h.physAddr_inMemory _

/-- No page stops the loop, whatever the tables hold, and each clears one slot of memory. -/
theorem State.HoldsAllTables.unmapPages_done (h : s.HoldsAllTables) (v : VirtAddr) (n k : Nat) :
    ∃ m, unmapPages v n k s = .done ⟨.ok, BitVec.ofNat 64 (n + k), 0⟩ (s.withMem m) := by
  induction n generalizing k s with
  | zero => exact ⟨s.mem, by rw [unmapPages, Nat.zero_add, State.withMem_self]⟩
  | succ n ih =>
    rw [unmapPages, unmapOne_inMemory (h.pathInMemory _), Eff.bind_done]
    obtain ⟨m, hm⟩ := ih (h.withMem _) (k + 1)
    exact ⟨m, by rw [hm, State.withMem_withMem, Nat.add_right_comm, Nat.add_assoc]⟩

/-- Settles O52: every table a walk can come to lies in memory. -/
theorem regionUnmapCompletesOverWholeMemory : Obligations.RegionUnmapCompletesOverWholeMemory := by
  intro v size s hroot hreach hsize hwrap
  have h : s.HoldsAllTables := ⟨hroot, hreach, (s.inMemory_iff _ _).2 ⟨hsize, hwrap⟩⟩
  obtain ⟨m, hm⟩ := h.unmapPages_done v (pageCount size).toNat 0
  refine ⟨m, ?_⟩
  rw [exec_ptUnmapRegion_of_root hroot, hm, Nat.add_zero, toNat_pageCount]
  rfl

/-! #### Regions under one level-1 table (R84, R88 (d)) -/

/-- The page `k` of a region that stays under one level-1 table: the same indices above, and `k` slots on at level 1. -/
theorem index_add_pageOffset (h : (index v .l1).toNat + k < 512) :
    (∀ l, l ≠ .l1 → index (v.add (pageOffset k)) l = index v l) ∧
      (index (v.add (pageOffset k)) .l1).toNat = (index v .l1).toNat + k := by
  have hv := v.val.isLt
  have hfield (u : VirtAddr) (l : Level) : (index u l).toNat = u.val.toNat / 2 ^ l.shift % 512 := by
    rw [index, BitVec.extractLsb'_toNat, Nat.shiftRight_eq_div_pow]
  have hadd : (v.add (pageOffset k)).val.toNat = (v.val.toNat + k * 4096) % 2 ^ 64 := by
    rw [VirtAddr.add, pageOffset, BitVec.toNat_add, BitVec.toNat_ofNat, Config.frameSize, Nat.add_mod_mod]
  rw [hfield, Level.shift] at h
  refine ⟨fun l hl => BitVec.eq_of_toNat_eq ?_, ?_⟩
  · rw [hfield, hfield, hadd]
    cases l with
    | l1 => exact absurd rfl hl
    | l2 | l3 | l4 => simp only [Level.shift]; omega
  · rw [hfield, hfield, hadd, Level.shift]
    omega

/-- Addresses with the same indices above level 1 have the same tables. -/
theorem State.pathTableAt_congr_index (h : ∀ l, l ≠ .l1 → index w l = index v l) (l : Level) :
    s.pathTableAt w l = s.pathTableAt v l := by
  induction l using Level.walkInduction with
  | top => rfl
  | below l l' habove _ ih =>
    rw [State.pathTableAt_below habove, State.pathTableAt_below habove, State.pathEntry, State.pathEntry,
      State.pathSlot, State.pathSlot, ih, h l (Level.ne_l1_of_below habove)]

/-- The tables of `v` exist, its level-1 table lies in memory, and the slots above share no byte with one another or
with that table: then every page under the table can be mapped without growing the tree. -/
structure State.TableReady (s : State) (v : VirtAddr) : Prop where
  rootValid : s.ptValid = true
  slotsInMemory : ∀ l, l ≠ .l1 → s.inMemory (s.pathSlot v l) 8 = true
  interiorUsed : ∀ l, l ≠ .l1 → isUnused (s.pathEntry v l) = false
  interiorApart : ∀ l l', l ≠ .l1 → l' ≠ .l1 → l ≠ l' → apart (s.pathSlot v l) 8 (s.pathSlot v l') 8 = true
  tableInMemory : s.inMemory (s.pathTableAt v .l1) 4096 = true
  tableApart : ∀ l, l ≠ .l1 → apart (s.pathSlot v l) 8 (s.pathTableAt v .l1) 4096 = true

/-- What is apart from a table is apart from each of its slots. -/
theorem apart_slot {a b : PhysAddr} {n : Nat} (hwrap : b.val.toNat + 4095 < 2 ^ 64) (h : apart a n b 4096 = true)
    (i : BitVec 9) : apart a n (slot b i) 8 = true := by
  have hi : i.toNat < 512 := i.isLt
  have hslot := toNat_slot hwrap i
  rw [apart_iff] at h ⊢
  omega

/-- Two slots of a table are apart. -/
theorem apart_slots {a : PhysAddr} (hwrap : a.val.toNat + 4095 < 2 ^ 64) {i j : BitVec 9} (h : i ≠ j) :
    apart (slot a i) 8 (slot a j) 8 = true := by
  have hne : i.toNat ≠ j.toNat := fun heq => h (BitVec.eq_of_toNat_eq heq)
  rw [apart_iff, toNat_slot hwrap, toNat_slot hwrap]
  omega

theorem State.noWrap_of_inMemory {a : PhysAddr} (h : s.inMemory a 4096 = true) : a.val.toNat + 4095 < 2 ^ 64 := by
  rw [State.inMemory_iff] at h
  omega

namespace State.TableReady

theorem congr (h : s.TableReady v) (hindex : ∀ l, l ≠ .l1 → index w l = index v l) : s.TableReady w := by
  have htable := State.pathTableAt_congr_index (s := s) hindex
  have hslot (l : Level) (hl : l ≠ .l1) : s.pathSlot w l = s.pathSlot v l := by
    rw [State.pathSlot, htable, hindex l hl, State.pathSlot]
  constructor
  case rootValid => exact h.rootValid
  case slotsInMemory => exact fun l hl => hslot l hl ▸ h.slotsInMemory l hl
  case interiorUsed => exact fun l hl => by rw [State.pathEntry, hslot l hl]; exact h.interiorUsed l hl
  case interiorApart =>
    exact fun l l' hl hl' hne => by rw [hslot l hl, hslot l' hl']; exact h.interiorApart l l' hl hl' hne
  case tableInMemory => exact htable .l1 ▸ h.tableInMemory
  case tableApart => exact fun l hl => by rw [hslot l hl, htable]; exact h.tableApart l hl

theorem pathReady (h : s.TableReady v) : s.pathReady v = true := by
  have hleaf (l : Level) (hl : l ≠ .l1) : apart (s.pathSlot v l) 8 (s.pathSlot v .l1) 8 = true :=
    apart_slot (State.noWrap_of_inMemory h.tableInMemory) (h.tableApart l hl) _
  refine State.pathReady_iff.2 ⟨State.pathInMemory_iff.2 ⟨h.rootValid, fun l => ?_⟩, h.interiorUsed,
    fun l l' hne => ?_⟩
  · by_cases hl : l = .l1
    · exact hl ▸ State.slot_inMemory h.tableInMemory _
    · exact h.slotsInMemory l hl
  · by_cases hl : l = .l1
    · subst hl
      rw [apart_comm]
      exact hleaf l' hne.symm
    · by_cases hl' : l' = .l1
      · exact hl' ▸ hleaf l hl
      · exact h.interiorApart l l' hl hl' hne

/-- Mapping a page under the table leaves the table where it is, and ready. -/
theorem mapped (h : s.TableReady v) (p : PhysAddr) (f : FlagWord) :
    (s.mapped v p f).TableReady v ∧ (s.mapped v p f).pathTableAt v .l1 = s.pathTableAt v .l1 := by
  obtain ⟨-, -, hapart⟩ := State.pathReady_iff.1 h.pathReady
  obtain ⟨-, hused, hapart'⟩ := State.pathReady_iff.1 (State.mapped_pathReady (p := p) (f := f) h.pathReady)
  have hslot := State.mapped_pathSlot (p := p) (f := f) hapart
  have htable := State.mapped_pathTableAt (p := p) (f := f) hapart .l1
  refine ⟨?_, htable⟩
  constructor
  case rootValid => exact h.rootValid
  case slotsInMemory => exact fun l hl => by rw [hslot]; exact h.slotsInMemory l hl
  case interiorUsed => exact hused
  case interiorApart => exact fun l l' _ _ hne => hapart' l l' hne
  case tableInMemory => rw [htable]; exact h.tableInMemory
  case tableApart => exact fun l hl => by rw [hslot, htable]; exact h.tableApart l hl

/-- Of the table, a map writes the page's own slot alone. -/
theorem mapped_readWord_slot (h : s.TableReady v) (p : PhysAddr) (f : FlagWord) (i : BitVec 9) :
    (s.mapped v p f).mem.readWord (slot (s.pathTableAt v .l1) i) =
      if i = index v .l1 then newPageEntry p f else s.mem.readWord (slot (s.pathTableAt v .l1) i) := by
  split
  · next hi =>
    obtain ⟨-, -, hapart⟩ := State.pathReady_iff.1 h.pathReady
    rw [hi, State.mapped_mem, ← State.pathSlot, State.mappedMem_readWord_pathSlot hapart, State.mappedEntry]
  · next hi =>
    rw [State.mapped_mem]
    refine State.mappedMem_readWord_apart fun l => ?_
    by_cases hl : l = .l1
    · rw [hl]
      exact apart_slots (State.noWrap_of_inMemory h.tableInMemory) fun heq => hi heq.symm
    · exact apart_slot (State.noWrap_of_inMemory h.tableInMemory) (h.tableApart l hl) i


/-- The slot of page `j` of the region, by its number in the table. -/
theorem index_eq_iff {j k : Nat} (hj : (index v .l1).toNat + j < 512) (hk : (index v .l1).toNat + k < 512) :
    index (v.add (pageOffset j)) .l1 = index (v.add (pageOffset k)) .l1 ↔ j = k := by
  rw [← BitVec.toNat_inj, (index_add_pageOffset hj).2, (index_add_pageOffset hk).2]
  omega

/-- The loop from page `k` on maps its `n` pages, each in its own slot of the table, and leaves the rest of
the table. -/
theorem mapPages_done (h : u.TableReady v) (p : PhysAddr) (f : FlagWord) (n k : Nat)
    (hfit : (index v .l1).toNat + (k + n) ≤ 512) :
    ∃ m, mapPages v p f n k u = .done ⟨.ok, BitVec.ofNat 64 (k + n), 0⟩ (u.withMem m) ∧
      (u.withMem m).TableReady v ∧ (u.withMem m).pathTableAt v .l1 = u.pathTableAt v .l1 ∧
      ∀ j, (index v .l1).toNat + j < 512 →
        m.readWord (slot (u.pathTableAt v .l1) (index (v.add (pageOffset j)) .l1)) =
          if k ≤ j ∧ j < k + n then newPageEntry (p.add (pageOffset j)) f
          else u.mem.readWord (slot (u.pathTableAt v .l1) (index (v.add (pageOffset j)) .l1)) := by
  induction n generalizing k u with
  | zero =>
    refine ⟨u.mem, by rw [mapPages, State.withMem_self, Nat.add_zero], h, rfl, fun j _ => ?_⟩
    rw [if_neg (by omega)]
  | succ n ih =>
    have hk : (index v .l1).toNat + k < 512 := by omega
    obtain ⟨habove, -⟩ := index_add_pageOffset hk
    have hpage : u.TableReady (v.add (pageOffset k)) := h.congr habove
    have hone := mapOne_ready (p.add (pageOffset k)) f hpage.pathReady
    obtain ⟨hready, htable⟩ := hpage.mapped (p.add (pageOffset k)) f
    have hback : ∀ l, l ≠ .l1 → index v l = index (v.add (pageOffset k)) l := fun l hl => (habove l hl).symm
    rw [State.pathTableAt_congr_index habove, State.pathTableAt_congr_index habove] at htable
    obtain ⟨m, hloop, hm, hmtable, hmslot⟩ := ih (hready.congr hback) (k + 1) (by omega)
    rw [htable] at hmtable hmslot
    refine ⟨m, ?_, hm, hmtable, fun j hj => ?_⟩
    · rw [mapPages, hone, Eff.bind_done, if_neg (by decide), hloop, Nat.add_right_comm, Nat.add_assoc]
      rfl
    · have hslot := hpage.mapped_readWord_slot (p.add (pageOffset k)) f (index (v.add (pageOffset j)) .l1)
      simp only [State.pathTableAt_congr_index habove, index_eq_iff hj hk] at hslot
      rw [hmslot j hj, hslot]
      by_cases hjk : j = k
      · subst hjk
        rw [if_neg (by omega), if_pos rfl, if_pos (by omega)]
      · rw [if_neg hjk]
        refine if_congr ?_ rfl rfl
        omega

end State.TableReady

/-- The slot `k` slots on in a table. -/
theorem slot_add (a : PhysAddr) {i j : BitVec 9} (h : j.toNat = i.toNat + k) :
    (slot a i).add (BitVec.ofNat 64 (8 * k)) = slot a j := by
  have hoff (i : BitVec 9) : (8 * i.setWidth 64 : Word) = BitVec.ofNat 64 (8 * i.toNat) := by
    rw [BitVec.ofNat_mul, BitVec.ofNat_toNat]
    rfl
  rw [slot, slot, PhysAddr.add, PhysAddr.add, PhysAddr.add, hoff, hoff, BitVec.add_assoc, ← BitVec.ofNat_add, h,
    Nat.mul_add]

/-- Settles O51, by induction on the pages: each is mapped by the tables of the first, which no map moves. -/
theorem regionMapUnderOneTableMapsEveryPage : Obligations.RegionMapUnderOneTableMapsEveryPage := by
  intro v p size f s h htable hfit hapart
  obtain ⟨hin, hused, hdisjoint⟩ := State.pathReady_iff.1 h
  obtain ⟨hroot, hslots⟩ := State.pathInMemory_iff.1 hin
  have hready : s.TableReady v :=
    ⟨hroot, fun l _ => hslots l, hused, fun l l' _ _ => hdisjoint l l', htable, 
      fun l hl => hapart l (Level.mem_interiorLevels_iff.2 hl)⟩
  rw [← toNat_pageCount] at hfit ⊢
  obtain ⟨m, hloop, hm, hmtable, hmslot⟩ := hready.mapPages_done p f (pageCount size).toNat 0 (by rwa [Nat.zero_add])
  refine ⟨(s.withMem m).respond .ok (BitVec.ofNat 64 (pageCount size).toNat) 0, ?_, rfl, rfl, rfl, fun k hk => ?_⟩
  · rw [exec_ptMapRegion_of_root hroot, hloop, Nat.zero_add]
    rfl
  · have hkfit : (index v .l1).toNat + k < 512 := by omega
    obtain ⟨habove, hindex⟩ := index_add_pageOffset hkfit
    have hentry := hmslot k hkfit
    rw [if_pos (by omega)] at hentry
    refine ⟨?_, ?_⟩
    · rw [State.pathSlot, slot_add _ hindex]
      exact hentry
    · have hpage := (hm.congr habove).pathReady
      have hend : (s.withMem m).pathEntry (v.add (pageOffset k)) .l1 = newPageEntry (p.add (pageOffset k)) f := by
        rw [State.pathEntry, State.pathSlot, State.pathTableAt_congr_index habove, hmtable]
        exact hentry
      rw [exec_respond]
      have hexec := exec_ptRetrieve_inMemory (State.pathReady_iff.1 hpage).1
      rw [hend, physAddr_newPageEntry] at hexec
      exact hexec

end Sys2Proof.Machine

/-! ### Growing the tree -/

namespace Sys2Proof.Machine

variable {v : VirtAddr} {p : PhysAddr} {f : FlagWord} {s t u : State} {l l' : Level} {m : Memory}
  {a b n table other : PhysAddr} {w : Word}

/-! #### Frames (R28, R121 P8) -/

theorem pageAligned_iff {w : Word} : pageAligned w = true ↔ w.toNat % 4096 = 0 := by
  simp [pageAligned, Config.frameSize]

theorem frameAddress_iff : frameAddress p = true ↔ p.val.toNat % 4096 = 0 ∧ p.val.toNat < 2 ^ 52 := by
  rw [frameAddress, Bool.and_eq_true, pageAligned_iff, decide_eq_true_eq]

/-- R28: a frame's address is the address field of an entry that names it. -/
theorem physAddr_of_frameAddress (h : frameAddress p = true) : physAddr p.val = p := by
  obtain ⟨haligned, hlt⟩ := frameAddress_iff.1 h
  have hmask : ∀ i < 64, addrMask.getLsbD i = (decide (12 ≤ i) && decide (i < 52)) := by decide
  refine PhysAddr.ext (BitVec.eq_of_getLsbD_eq fun i hi => ?_)
  rw [physAddr, BitVec.getLsbD_and, hmask i hi, BitVec.getLsbD]
  by_cases hlow : i < 12
  · have hbit := Nat.testBit_mod_two_pow p.val.toNat 12 i
    rw [show p.val.toNat % 2 ^ 12 = 0 from haligned, Nat.zero_testBit, decide_eq_true hlow, Bool.true_and] at hbit
    rw [← hbit, Bool.false_and]
  · by_cases hhigh : i < 52
    · rw [decide_eq_true (not_lt.1 hlow), decide_eq_true hhigh, Bool.and_self, Bool.and_true]
    · rw [Nat.testBit_lt_two_pow (hlt.trans_le (Nat.pow_le_pow_right (by decide) (not_lt.1 hhigh))), Bool.false_and]

/-- R50: the entry that links a frame is its address with present and writable added. -/
theorem newTableEntry_of_frameAddress (h : frameAddress n = true) : newTableEntry n = n.val ||| 3 :=
  congrArg (· ||| 3) (congrArg PhysAddr.val (physAddr_of_frameAddress h))

theorem physAddr_link (h : frameAddress n = true) : physAddr (n.val ||| 3) = n := by
  rw [physAddr_or_three, physAddr_of_frameAddress h]

theorem noWrap_of_frameAddress (h : frameAddress table = true) : table.val.toNat + 4095 < 2 ^ 64 := by
  obtain ⟨-, hlt⟩ := frameAddress_iff.1 h
  omega

/-- Frames are the same or share no byte. -/
theorem apart_of_frameAddress (ha : frameAddress a = true) (hb : frameAddress b = true) (hne : a ≠ b) :
    apart a 4096 b 4096 = true := by
  obtain ⟨ha, -⟩ := frameAddress_iff.1 ha
  obtain ⟨hb, -⟩ := frameAddress_iff.1 hb
  have hnat : a.val.toNat ≠ b.val.toNat := fun h => hne (PhysAddr.ext (BitVec.eq_of_toNat_eq h))
  rw [apart_iff]
  omega

/-- What is apart from a frame is apart from each of its slots. -/
theorem apart_slot_of_frame {k : Nat} (ht : frameAddress table = true) (h : apart a k table 4096 = true)
    (i : BitVec 9) : apart a k (slot table i) 8 = true := apart_slot (noWrap_of_frameAddress ht) h i

/-- Slots of frames apart are apart. -/
theorem apart_slots_of_frames (ht : frameAddress table = true) (ho : frameAddress other = true)
    (h : apart table 4096 other 4096 = true) (i j : BitVec 9) : apart (slot table i) 8 (slot other j) 8 = true := by
  refine apart_slot_of_frame ho ?_ j
  rw [apart_comm] at h ⊢
  exact apart_slot_of_frame ht h i

/-! #### Writing and linking in tables (R76) -/

theorem Memory.readWord_writeWord_slot (ht : frameAddress table = true) (i j : BitVec 9) :
    (m.writeWord (slot table i) w).readWord (slot table j) = if j = i then w else m.readWord (slot table j) := by
  split
  · next h => rw [h, Memory.readWord_writeWord_same]
  · next h => exact Memory.readWord_writeWord_of_apart w (apart_slots (noWrap_of_frameAddress ht) fun heq => h heq.symm)

theorem Memory.readWord_writeWord_other (ht : frameAddress table = true) (ho : frameAddress other = true)
    (h : apart table 4096 other 4096 = true) (i j : BitVec 9) :
    (m.writeWord (slot table i) w).readWord (slot other j) = m.readWord (slot other j) :=
  Memory.readWord_writeWord_of_apart w (apart_slots_of_frames ht ho h i j)

/-- Memory after the frame `n` is zeroed and linked at `a`. -/
def Memory.linkFrame (m : Memory) (a n : PhysAddr) : Memory :=
  (m.zeroRange n.val.toNat 4096).writeWord a (n.val ||| 3)

theorem Memory.readWord_linkFrame_link (m : Memory) (a n : PhysAddr) : (m.linkFrame a n).readWord a = n.val ||| 3 :=
  Memory.readWord_writeWord_same _ _ _

theorem Memory.readWord_linkFrame_apart (ha : apart a 8 b 8 = true) (hn : apart n 4096 b 8 = true) :
    (m.linkFrame a n).readWord b = m.readWord b := by
  rw [Memory.linkFrame, Memory.readWord_writeWord_of_apart _ ha,
    Memory.readWord_zeroRange_apart _ _ _ _ (apart_iff.1 hn)]

theorem Memory.readWord_linkFrame_new (hn : frameAddress n = true) (h : apart a 8 n 4096 = true) (i : BitVec 9) :
    (m.linkFrame a n).readWord (slot n i) = 0 := by
  have hi : i.toNat < 512 := i.isLt
  have hslot := toNat_slot (noWrap_of_frameAddress hn) i
  rw [Memory.linkFrame, Memory.readWord_writeWord_of_apart _ (apart_slot_of_frame hn h i),
    Memory.readWord_zeroRange_inside _ _ _ _ (by omega) (by omega)]

theorem Memory.readWord_linkFrame_slot (ht : frameAddress table = true) (hn : apart n 4096 table 4096 = true)
    (i j : BitVec 9) : (m.linkFrame (slot table i) n).readWord (slot table j) =
      if j = i then n.val ||| 3 else m.readWord (slot table j) := by
  split
  · next h => rw [h, Memory.readWord_linkFrame_link]
  · next h =>
    have hslots := apart_slots (noWrap_of_frameAddress ht) fun heq => h heq.symm
    exact Memory.readWord_linkFrame_apart hslots (apart_slot_of_frame ht hn j)

theorem Memory.readWord_linkFrame_other (ht : frameAddress table = true) (ho : frameAddress other = true)
    (h : apart table 4096 other 4096 = true) (hn : apart n 4096 other 4096 = true) (i j : BitVec 9) :
    (m.linkFrame (slot table i) n).readWord (slot other j) = m.readWord (slot other j) :=
  Memory.readWord_linkFrame_apart (apart_slots_of_frames ht ho h i j) (apart_slot_of_frame ho hn j)

/-- One level of the descent at an unused entry: the frame `Alloc()` yields is zeroed, if it has not been, and
linked. -/
theorem descendLevel_link (hm : s.inMemory (slot table (index v l)) 8 = true)
    (hu : isUnused (s.mem.readWord (slot table (index v l))) = true) (ha : alloc s = .done (some n) u)
    (hp : u.params = s.params) (hn : frameAddress n = true) (hin : s.inMemory n 4096 = true)
    (hz : u.mem.zeroRange n.val.toNat 4096 = s.mem.zeroRange n.val.toNat 4096) :
    descendLevel v l table s = .done (some n) (u.withMem (s.mem.linkFrame (slot table (index v l)) n)) := by
  rw [descendLevel_grow hm hu ha hp hin, newTableEntry_of_frameAddress hn, physAddr_link hn, Config.frameSize, hz,
    Memory.linkFrame]

/-! #### Growing from the bump path (R66, R80, R91) -/

/-- The allocator has `k` frames left on the bump path and none on the free list, and the frames lie in memory. -/
structure State.BumpLeft (s : State) (k : Nat) : Prop where
  inited : s.inited = true
  lockFree : s.lock = false
  listEmpty : s.freeHead = ⟨0⟩
  cursorAligned : pageAligned s.heapTop.val = true
  fits : s.heapTop.val.toNat + k * 4096 ≤ s.params.heapLimit
  limitInMemory : s.params.heapLimit ≤ s.params.memSize
  limitInField : s.params.heapLimit ≤ 2 ^ 52

/-- The state after the next bump frame is linked at `a`. -/
def State.grown (s : State) (a : PhysAddr) : State := s.bumped.withMem (s.mem.linkFrame a s.heapTop)

@[simp] theorem State.grown_mem (s : State) (a : PhysAddr) : (s.grown a).mem = s.mem.linkFrame a s.heapTop := rfl
@[simp] theorem State.grown_heapTop (s : State) (a : PhysAddr) : (s.grown a).heapTop = ⟨s.heapTop.val + 4096⟩ := rfl
@[simp] theorem State.grown_freeHead (s : State) (a : PhysAddr) : (s.grown a).freeHead = s.freeHead := by
  simp [State.grown]
@[simp] theorem State.grown_params (s : State) (a : PhysAddr) : (s.grown a).params = s.params := by simp [State.grown]
@[simp] theorem State.grown_inMemory (s : State) (a b : PhysAddr) (k : Nat) :
    (s.grown a).inMemory b k = s.inMemory b k := State.inMemory_congr (s.grown_params a) b k
@[simp] theorem State.bumped_ptRoot (s : State) : s.bumped.ptRoot = s.ptRoot := by simp [← State.bumped_eq]
@[simp] theorem State.bumped_ptValid (s : State) : s.bumped.ptValid = s.ptValid := by simp [← State.bumped_eq]
@[simp] theorem State.grown_ptRoot (s : State) (a : PhysAddr) : (s.grown a).ptRoot = s.ptRoot := by simp [State.grown]
@[simp] theorem State.grown_inited (s : State) (a : PhysAddr) : (s.grown a).inited = s.inited := by simp [State.grown]
@[simp] theorem State.grown_lock (s : State) (a : PhysAddr) : (s.grown a).lock = s.lock := by simp [State.grown]

theorem toNat_add_frame (h : w.toNat + 4096 ≤ 2 ^ 52) : (w + 4096).toNat = w.toNat + 4096 := by
  rw [BitVec.toNat_add, show (4096 : Word).toNat = 4096 from rfl]
  omega

namespace State.BumpLeft

variable {k : Nat}

theorem toNat_cursor (h : s.BumpLeft (k + 1)) : (s.heapTop.val + 4096).toNat = s.heapTop.val.toNat + 4096 := by
  have hfits := h.fits
  have hlimit := h.limitInField
  exact toNat_add_frame (by omega)

theorem frame (h : s.BumpLeft (k + 1)) : frameAddress s.heapTop = true := by
  have haligned := pageAligned_iff.1 h.cursorAligned
  have hfits := h.fits
  have hlimit := h.limitInField
  exact frameAddress_iff.2 ⟨haligned, by omega⟩

theorem frame_inMemory (h : s.BumpLeft (k + 1)) : s.inMemory s.heapTop 4096 = true := by
  have hfits := h.fits
  have hsize := h.limitInMemory
  have hlimit := h.limitInField
  rw [State.inMemory_iff]
  omega

theorem grown (h : s.BumpLeft (k + 1)) (a : PhysAddr) : (s.grown a).BumpLeft k := by
  have hcursor := h.toNat_cursor
  have haligned := pageAligned_iff.1 h.cursorAligned
  have hfits := h.fits
  constructor
  case inited => rw [State.grown_inited]; exact h.inited
  case lockFree => rw [State.grown_lock]; exact h.lockFree
  case listEmpty => rw [State.grown_freeHead]; exact h.listEmpty
  case cursorAligned =>
    simp only [State.grown_heapTop, pageAligned_iff]
    omega
  case fits =>
    simp only [State.grown_heapTop, State.grown_params]
    omega
  case limitInMemory => rw [State.grown_params]; exact h.limitInMemory
  case limitInField => rw [State.grown_params]; exact h.limitInField

/-- One level of the descent at an unused entry: the table below is the next bump frame. -/
theorem descendLevel_grown (h : s.BumpLeft (k + 1)) (hm : s.inMemory (slot table (index v l)) 8 = true)
    (h0 : s.mem.readWord (slot table (index v l)) = 0) :
    descendLevel v l table s = .done (some s.heapTop) (s.grown (slot table (index v l))) := by
  have hfits := h.fits
  refine descendLevel_link hm (by rw [h0]; rfl)
    (alloc_bumped h.inited h.lockFree h.listEmpty (by omega) h.frame_inMemory) s.bumped_params h.frame
    h.frame_inMemory ?_
  rw [State.bumped_mem, Memory.zeroRange_zeroRange]

end State.BumpLeft

theorem descend_cons_of_none {ls : List Level} (h : descendLevel v l table s = .done none u) :
    descend v (l :: ls) table s = .done none u := by
  rw [descend, h]
  rfl

theorem mapOne_of_descend_none (h : descend v interiorLevels s.ptRoot s = .done none u) :
    mapOne v p f s = .done .none u := by
  rw [mapOne, h]
  rfl

theorem Memory.read_linkFrame_new (h : apart a 8 n 4096 = true) {i : Nat} (hi : i < 4096) :
    Memory.read (m.linkFrame a n) (n.val.toNat + i) = 0 := by
  rw [apart_iff] at h
  rw [Memory.linkFrame, Memory.read_writeWord_outside _ _ _ (by omega), Memory.read_zeroRange, if_pos (by omega)]

/-- Settles O47: the one frame left becomes the level-3 table, and `Alloc()` finds nothing for the level-2 table. -/
theorem exhaustedMapKeepsTheTablesItCreated : Obligations.ExhaustedMapKeepsTheTablesItCreated := by
  intro v p f s hroot hinit hlock hlist haligned hfits hlast hsize hlimit hslot h0 hapart
  have h : s.BumpLeft 1 := ⟨hinit, hlock, hlist, haligned, by omega, hsize, hlimit⟩
  have hlink := h.descendLevel_grown (v := v) (l := .l4) (table := s.ptRoot) hslot h0
  have hnew := Memory.readWord_linkFrame_new (m := s.mem) h.frame hapart (index v .l3)
  have hleft := h.grown (s.pathSlot v .l4)
  have hexhausted : (s.grown (s.pathSlot v .l4)).heapExhausted = true := by
    rw [State.heapExhausted_iff, State.grown_params, State.grown_heapTop, h.toNat_cursor, Config.frameSize]
    omega
  have hstop := descendLevel_exhausted (v := v) (l := .l3) (t := s.heapTop) (s := s.grown (s.pathSlot v .l4))
    ((s.grown_inMemory _ _ _).trans (State.slot_inMemory h.frame_inMemory _)) (by rw [State.grown_mem, hnew]; rfl)
    (alloc_exhausted hleft.inited hleft.lockFree hleft.listEmpty hexhausted)
  have hmap : mapOne v p f s = .done .none (s.grown (s.pathSlot v .l4)) :=
    mapOne_of_descend_none ((descend_cons_of_done hlink).trans (descend_cons_of_none hstop))
  exact ⟨_, exec_ptMap_of_mapOne hroot hmap, rfl, rfl, Memory.readWord_linkFrame_link s.mem _ _,
    fun i hi => Memory.read_linkFrame_new hapart hi, by rw [State.respond_ptRoot, State.grown_ptRoot]⟩

/-- Memory after the frames `a`, `b` and `c` are linked below the slot `r`, each in the one before, and `w` is written
in the last: each table holds its one entry and no other. -/
theorem Memory.readWord_three_linked {r a b c : PhysAddr} (ha : frameAddress a = true) (hb : frameAddress b = true)
    (hc : frameAddress c = true) (hab : apart a 4096 b 4096 = true) (hac : apart a 4096 c 4096 = true)
    (hbc : apart b 4096 c 4096 = true) (hra : apart r 8 a 4096 = true) (hrb : apart r 8 b 4096 = true)
    (hrc : apart r 8 c 4096 = true) (i j k : BitVec 9) (m : Memory) (w : Word) :
    let m' := (((m.linkFrame r a).linkFrame (slot a i) b).linkFrame (slot b j) c).writeWord (slot c k) w
    m'.readWord r = a.val ||| 3 ∧ (∀ x, m'.readWord (slot a x) = if x = i then b.val ||| 3 else 0) ∧
      (∀ x, m'.readWord (slot b x) = if x = j then c.val ||| 3 else 0) ∧
      ∀ x, m'.readWord (slot c x) = if x = k then w else 0 := by
  have hcb := apart_symm hbc
  have hrslot {t : PhysAddr} (ht : frameAddress t = true) (h : apart r 8 t 4096 = true) (x : BitVec 9) :
      apart (slot t x) 8 r 8 = true := apart_symm (apart_slot_of_frame ht h x)
  have hslot {t o : PhysAddr} (ht : frameAddress t = true) (h : apart t 4096 o 4096 = true) (x : BitVec 9) :
      apart (slot t x) 8 o 4096 = true := apart_symm (apart_slot_of_frame ht (apart_symm h) x)
  refine ⟨?_, fun x => ?_, fun x => ?_, fun x => ?_⟩
  · rw [Memory.readWord_writeWord_of_apart _ (hrslot hc hrc k),
      Memory.readWord_linkFrame_apart (hrslot hb hrb j) (apart_symm hrc),
      Memory.readWord_linkFrame_apart (hrslot ha hra i) (apart_symm hrb), Memory.readWord_linkFrame_link]
  · rw [Memory.readWord_writeWord_other hc ha (apart_symm hac),
      Memory.readWord_linkFrame_other hb ha (apart_symm hab) (apart_symm hac),
      Memory.readWord_linkFrame_slot ha (apart_symm hab), Memory.readWord_linkFrame_new ha hra]
  · rw [Memory.readWord_writeWord_other hc hb hcb, Memory.readWord_linkFrame_slot hb hcb,
      Memory.readWord_linkFrame_new hb (hslot ha hab i)]
  · rw [Memory.readWord_writeWord_slot hc, Memory.readWord_linkFrame_new hc (hslot hb hbc j)]

namespace State.BumpLeft

variable {k : Nat} {ls : List Level}

theorem descend_grown (h : s.BumpLeft (k + 1)) (hm : s.inMemory (slot table (index v l)) 8 = true)
    (h0 : s.mem.readWord (slot table (index v l)) = 0) :
    descend v (l :: ls) table s = descend v ls s.heapTop (s.grown (slot table (index v l))) :=
  descend_cons_of_done (h.descendLevel_grown hm h0)

/-- The fresh table: its slots lie in memory and hold the unused entry. -/
theorem grown_slot (h : s.BumpLeft (k + 1)) (hapart : apart a 8 s.heapTop 4096 = true) (i : BitVec 9) :
    (s.grown a).inMemory (slot s.heapTop i) 8 = true ∧ (s.grown a).mem.readWord (slot s.heapTop i) = 0 := by
  rw [State.grown_inMemory, State.grown_mem]
  exact ⟨State.slot_inMemory h.frame_inMemory i, Memory.readWord_linkFrame_new h.frame hapart i⟩

/-- The fresh table lies below the next one. -/
theorem apart_grown (h : s.BumpLeft (k + 1)) : apart s.heapTop 4096 ⟨s.heapTop.val + 4096⟩ 4096 = true :=
  apart_iff.2 (.inl h.toNat_cursor.ge)

end State.BumpLeft

theorem apart_slot_frame (ht : frameAddress table = true) (h : apart table 4096 other 4096 = true) (i : BitVec 9) :
    apart (slot table i) 8 other 4096 = true :=
  apart_symm (apart_slot_of_frame ht (apart_symm h) i)

/-- A range apart from a longer one is apart from each part of it. -/
theorem apart_part {i j k : Nat} (h : apart a i b k = true) (hlo : b.val.toNat ≤ n.val.toNat)
    (hhi : n.val.toNat + j ≤ b.val.toNat + k) : apart a i n j = true := by
  rw [apart_iff] at h ⊢
  omega

/-- The state after three bump frames are linked on the path of `v`, the first at its level-4 slot. -/
def State.grownThree (s : State) (v : VirtAddr) : State :=
  ((s.grown (s.pathSlot v .l4)).grown (slot s.heapTop (index v .l3))).grown
    (slot ⟨s.heapTop.val + 0x1000⟩ (index v .l2))

theorem State.grownThree_heapTop (s : State) (v : VirtAddr) : (s.grownThree v).heapTop = ⟨s.heapTop.val + 0x3000⟩ := by
  simp only [State.grownThree, State.grown_heapTop, BitVec.add_assoc]
  rfl

theorem State.grownThree_ptRoot (s : State) (v : VirtAddr) : (s.grownThree v).ptRoot = s.ptRoot := by
  simp only [State.grownThree, State.grown_ptRoot]

theorem State.grownThree_freeHead (s : State) (v : VirtAddr) : (s.grownThree v).freeHead = s.freeHead := by
  simp only [State.grownThree, State.grown_freeHead]

theorem State.pathSlot_l4 (s : State) (v : VirtAddr) : s.pathSlot v .l4 = slot s.ptRoot (index v .l4) := rfl

/-- The path of an address through entries that link the frames `a`, `b` and `c`. -/
theorem State.pathSlot_l1_of_links {a b c : PhysAddr} (ha : frameAddress a = true) (hb : frameAddress b = true)
    (hc : frameAddress c = true) (h4 : s.pathEntry v .l4 = a.val ||| 3)
    (h3 : s.mem.readWord (slot a (index v .l3)) = b.val ||| 3)
    (h2 : s.mem.readWord (slot b (index v .l2)) = c.val ||| 3) : s.pathSlot v .l1 = slot c (index v .l1) := by
  have ht3 : s.pathTableAt v .l3 = a := by
    rw [State.pathTableAt_below (l := .l4) rfl, h4, physAddr_link ha]
  have ht2 : s.pathTableAt v .l2 = b := by
    rw [State.pathTableAt_below (l := .l3) rfl, State.pathEntry, State.pathSlot, ht3, h3, physAddr_link hb]
  rw [State.pathSlot, State.pathTableAt_below (l := .l2) rfl, State.pathEntry, State.pathSlot, ht2, h2,
    physAddr_link hc]

/-- Three unused entries, one below the other, take three bump frames. -/
theorem State.BumpLeft.descend_three (h : s.BumpLeft 3) (hslot : s.inMemory (s.pathSlot v .l4) 8 = true)
    (h0 : s.pathEntry v .l4 = 0) (hapart : apart (s.pathSlot v .l4) 8 s.heapTop 4096 = true) :
    descend v interiorLevels s.ptRoot s = .done (some ⟨s.heapTop.val + 0x2000⟩) (s.grownThree v) := by
  have h1 := h.grown (s.pathSlot v .l4)
  have h2 := h1.grown (slot s.heapTop (index v .l3))
  obtain ⟨hm1, hz1⟩ := h.grown_slot hapart (index v .l3)
  obtain ⟨hm2, hz2⟩ := h1.grown_slot (apart_slot_frame h.frame h.apart_grown (index v .l3)) (index v .l2)
  have htop : (s.heapTop.val + 4096 + 4096 : Word) = s.heapTop.val + 0x2000 := BitVec.add_assoc _ _ _
  calc descend v interiorLevels s.ptRoot s
    _ = descend v [.l3, .l2] s.heapTop (s.grown (s.pathSlot v .l4)) := h.descend_grown (table := s.ptRoot) hslot h0
    _ = descend v [.l2] ⟨s.heapTop.val + 4096⟩ _ := h1.descend_grown hm1 hz1
    _ = descend v [] ⟨s.heapTop.val + 4096 + 4096⟩ (s.grownThree v) := h2.descend_grown hm2 hz2
    _ = .done (some ⟨s.heapTop.val + 0x2000⟩) (s.grownThree v) := by rw [htop, descend]

/-- The frame `j` frames above the cursor, among those left. -/
theorem State.BumpLeft.frame_above {j k : Nat} (h : s.BumpLeft k) (hj : j < k) {off : Word}
    (hoff : off.toNat = j * 4096) : frameAddress ⟨s.heapTop.val + off⟩ = true ∧
      s.inMemory ⟨s.heapTop.val + off⟩ 4096 = true ∧
      (⟨s.heapTop.val + off⟩ : PhysAddr).val.toNat = s.heapTop.val.toNat + j * 4096 := by
  have hfits := h.fits
  have hsize := h.limitInMemory
  have hlimit := h.limitInField
  have haligned := pageAligned_iff.1 h.cursorAligned
  have hnat : (⟨s.heapTop.val + off⟩ : PhysAddr).val.toNat = s.heapTop.val.toNat + j * 4096 := by
    rw [BitVec.toNat_add, hoff]
    omega
  rw [frameAddress_iff, State.inMemory_iff, hnat]
  omega

/-- Settles O39: each unused entry takes the next bump frame, and the fresh table's own entry is unused again. -/
theorem ptMapGrowsThreeTablesFromTheBumpPath : Obligations.PtMapGrowsThreeTablesFromTheBumpPath := by
  intro v p f s hroot hinit hlock hlist haligned hfits hsize hlimit hslot h0 hapart
  have h : s.BumpLeft 3 := ⟨hinit, hlock, hlist, haligned, hfits, hsize, hlimit⟩
  obtain ⟨hb, -, hbnat⟩ := h.frame_above (j := 1) (off := 0x1000) (by decide) rfl
  obtain ⟨hc, hcin, hcnat⟩ := h.frame_above (j := 2) (off := 0x2000) (by decide) rfl
  have hra : apart (s.pathSlot v .l4) 8 s.heapTop 4096 = true := apart_part hapart le_rfl (by omega)
  have hdescend := h.descend_three hslot h0 hra
  have hcin' : (s.grownThree v).inMemory (slot ⟨s.heapTop.val + 0x2000⟩ (index v .l1)) 8 = true := by
    simp only [State.grownThree, State.grown_inMemory]
    exact State.slot_inMemory hcin _
  obtain ⟨h4, h3, h2, h1⟩ := Memory.readWord_three_linked h.frame hb hc (apart_iff.2 (by omega))
    (apart_iff.2 (by omega)) (apart_iff.2 (by omega)) hra (apart_part hapart (by omega) (by omega))
    (apart_part hapart (by omega) (by omega)) (index v .l3) (index v .l2) (index v .l1) s.mem (newPageEntry p f)
  have hmem : (s.grownThree v).mem = ((s.mem.linkFrame (s.pathSlot v .l4) s.heapTop).linkFrame
      (slot s.heapTop (index v .l3)) ⟨s.heapTop.val + 0x1000⟩).linkFrame
      (slot ⟨s.heapTop.val + 0x1000⟩ (index v .l2)) ⟨s.heapTop.val + 0x2000⟩ := by
    simp only [State.grownThree, State.grown_mem, State.grown_heapTop, BitVec.add_assoc]
    rfl
  rw [← hmem] at h4 h3 h2 h1
  refine ⟨_, exec_ptMap_of_mapOne hroot (mapOne_of_descend_some hdescend hcin'), rfl, ?heapTop, ?freeHead, ?ptRoot, ?_⟩
  case heapTop => rw [State.respond_heapTop, State.withMem_heapTop, State.grownThree_heapTop]
  case freeHead => rw [State.respond_freeHead, State.withMem_freeHead, State.grownThree_freeHead, hlist]
  case ptRoot => rw [State.respond_ptRoot, State.withMem_ptRoot, State.grownThree_ptRoot]
  rw [State.respond_mem, State.withMem_mem]
  have h3l := (h3 (index v .l3)).trans (if_pos rfl)
  have h2l := (h2 (index v .l2)).trans (if_pos rfl)
  refine ⟨h4, h3l, h2l, (h1 _).trans (if_pos rfl),
    fun i hi => (h3 i).trans (if_neg hi), fun i hi => (h2 i).trans (if_neg hi),
    fun i hi => (h1 i).trans (if_neg hi), ?pathSlot⟩
  case pathSlot =>
    refine State.pathSlot_l1_of_links h.frame hb hc ?_ ?_ ?_
    · rw [State.pathEntry, State.pathSlot_l4, State.respond_ptRoot, State.withMem_ptRoot, State.grownThree_ptRoot,
        State.respond_mem, State.withMem_mem, ← State.pathSlot_l4, h4]
    · rw [State.respond_mem, State.withMem_mem, h3l]
    · rw [State.respond_mem, State.withMem_mem, h2l]

end Sys2Proof.Machine

/-! ### Mapping where the host has kept the frames apart (R88 (a), R76 (d)) -/

namespace Sys2Proof.Machine

variable {v : VirtAddr} {p : PhysAddr} {f : FlagWord} {s t u : State} {l l' k : Level} {w : Pte} {n g : PhysAddr}
  {fs fs' : List PhysAddr}

/-! #### The levels reached -/

theorem State.reached_top (s : State) (v : VirtAddr) : s.reached v .l4 := fun _ h => absurd h List.not_mem_nil

theorem State.reached_below (h : l'.above = l.above ++ [l]) :
    s.reached v l' ↔ s.reached v l ∧ isUnused (s.pathEntry v l) = false := by
  rw [State.reached, h, List.forall_mem_append, List.forall_mem_singleton, State.reached]

theorem State.reached_of_reached_l1 (h : s.reached v .l1) (l : Level) : s.reached v l := by
  have hsub : l.above ⊆ Level.l1.above := by cases l <;> decide
  exact fun l' hl' => h l' (hsub hl')

theorem Level.above_injective (h : l.above = l'.above) : l = l' := by
  cases l <;> cases l' <;> first | rfl | cases h

/-- Induction up the levels, from the leaf tables. -/
theorem Level.climbInduction {P : Level → Prop} (bottom : P .l1)
    (above : ∀ l l' : Level, l'.above = l.above ++ [l] → l.interiorFrom = l :: l'.interiorFrom → P l' → P l) :
    ∀ l, P l := by
  have h2 : P .l2 := above .l2 .l1 rfl rfl bottom
  have h3 : P .l3 := above .l3 .l2 rfl rfl h2
  have h4 : P .l4 := above .l4 .l3 rfl rfl h3
  rintro (_ | _ | _ | _) <;> assumption

/-! #### One entry of the path written

The descent writes one entry of a table the path has reached, and perhaps makes the next table; no other entry of the
tables reached changes. -/

/-- From `s` to `t` the level-`l` entry of `v` becomes `w`, and no other entry of a table reached changes. -/
structure WritesEntry (v : VirtAddr) (l : Level) (w : Pte) (s t : State) : Prop where
  reached : s.reached v l
  root : t.ptRoot = s.ptRoot
  written : t.mem.readWord (s.pathSlot v l) = w
  kept : ∀ k, s.reached v k → ∀ j, k ≠ l ∨ j ≠ index v l →
    t.mem.readWord (slot (s.pathTableAt v k) j) = s.mem.readWord (slot (s.pathTableAt v k) j)

/-- An entry in use is replaced by one in use that points to the same table; an unused one, or one at level 1, by any. -/
def KeepsTable (s : State) (v : VirtAddr) (l : Level) (w : Pte) : Prop :=
  l ≠ .l1 → isUnused (s.pathEntry v l) = false → isUnused w = false ∧ physAddr w = physAddr (s.pathEntry v l)

/-- From `s` to `t` the path of `v` keeps its tables, and they their entries off the path; a table gained has none. -/
structure TreeGrows (v : VirtAddr) (s t : State) : Prop where
  tables : ∀ k, s.reached v k → t.reached v k ∧ t.pathTableAt v k = s.pathTableAt v k
  kept : ∀ k, s.reached v k → ∀ j, j ≠ index v k →
    t.mem.readWord (slot (s.pathTableAt v k) j) = s.mem.readWord (slot (s.pathTableAt v k) j)
  clean : ∀ k, ¬ s.reached v k → t.reached v k → ∀ j, j ≠ index v k →
    t.mem.readWord (slot (t.pathTableAt v k) j) = 0

namespace WritesEntry

theorem pathEntry (h : WritesEntry v l w s t) (hk : s.reached v k) (htable : t.pathTableAt v k = s.pathTableAt v k) :
    t.pathEntry v k = if k = l then w else s.pathEntry v k := by
  rw [State.pathEntry, State.pathSlot, htable]
  split
  · next hkl => rw [hkl, ← State.pathSlot, h.written]
  · next hkl => exact h.kept k hk _ (.inl hkl)

/-- The tables reached stay where they are. -/
theorem tables (h : WritesEntry v l w s t) (hw : KeepsTable s v l w) (hk : s.reached v k) :
    t.reached v k ∧ t.pathTableAt v k = s.pathTableAt v k := by
  induction k using Level.walkInduction with
  | top => exact ⟨t.reached_top v, h.root⟩
  | below k k' habove _ ih =>
    obtain ⟨hk, hused⟩ := (State.reached_below habove).1 hk
    obtain ⟨hreached, htable⟩ := ih hk
    have hentry : isUnused (t.pathEntry v k) = false ∧ physAddr (t.pathEntry v k) = physAddr (s.pathEntry v k) := by
      rw [h.pathEntry hk htable]
      split
      · next hkl =>
        subst hkl
        exact hw (Level.ne_l1_of_below habove) hused
      · exact ⟨hused, rfl⟩
    exact ⟨(State.reached_below habove).2 ⟨hreached, hentry.1⟩, by
      rw [State.pathTableAt_below habove, State.pathTableAt_below habove, hentry.2]⟩

/-- Where the entry was in use, or no table hangs from it, the path reaches no further than before. -/
theorem reached_of_used (h : WritesEntry v l w s t) (hw : KeepsTable s v l w)
    (hl : l ≠ .l1 → isUnused (s.pathEntry v l) = false) (hk : t.reached v k) : s.reached v k := by
  induction k using Level.walkInduction with
  | top => exact s.reached_top v
  | below k k' habove _ ih =>
    obtain ⟨hk, hused⟩ := (State.reached_below habove).1 hk
    have hreached := ih hk
    rw [h.pathEntry hreached (h.tables hw hreached).2] at hused
    refine (State.reached_below habove).2 ⟨hreached, ?_⟩
    split at hused
    · next hkl =>
      subst hkl
      exact hl (Level.ne_l1_of_below habove)
    · exact hused

/-- Where an unused entry is linked to an empty table, the path reaches that table and no further. -/
theorem reached_of_unused (h : WritesEntry v l w s t) (hw : KeepsTable s v l w) (hbelow : l'.above = l.above ++ [l])
    (hempty : ∀ j, t.mem.readWord (slot (physAddr w) j) = 0) (hk : t.reached v k) :
    s.reached v k ∨ k = l' := by
  induction k using Level.walkInduction with
  | top => exact .inl (s.reached_top v)
  | below k k' habove _ ih =>
    obtain ⟨hk, hused⟩ := (State.reached_below habove).1 hk
    rcases ih hk with hreached | rfl
    · rw [h.pathEntry hreached (h.tables hw hreached).2] at hused
      split at hused
      · next hkl =>
        subst hkl
        exact .inr (Level.above_injective (habove.trans hbelow.symm))
      · exact .inl ((State.reached_below habove).2 ⟨hreached, hused⟩)
    · have htable : t.pathTableAt v k = physAddr w := by
        rw [State.pathTableAt_below hbelow, h.pathEntry h.reached (h.tables hw h.reached).2, if_pos rfl]
      rw [State.pathEntry, State.pathSlot, htable, hempty] at hused
      exact absurd hused (by decide)

end WritesEntry

namespace TreeGrows

theorem refl (v : VirtAddr) (s : State) : TreeGrows v s s :=
  ⟨fun _ hk => ⟨hk, rfl⟩, fun _ _ _ _ => rfl, fun _ hn hk => absurd hk hn⟩

theorem trans (h : TreeGrows v s t) (h' : TreeGrows v t u) : TreeGrows v s u where
  tables k hk := by
    obtain ⟨hkt, htable⟩ := h.tables k hk
    obtain ⟨hku, htable'⟩ := h'.tables k hkt
    exact ⟨hku, htable'.trans htable⟩
  kept k hk j hj := by
    obtain ⟨hkt, htable⟩ := h.tables k hk
    have hkept := h'.kept k hkt j hj
    rw [htable] at hkept
    exact hkept.trans (h.kept k hk j hj)
  clean k hns hku j hj := by
    by_cases hkt : t.reached v k
    · rw [(h'.tables k hkt).2, h'.kept k hkt j hj]
      exact h.clean k hns hkt j hj
    · exact h'.clean k hkt hku j hj

theorem of_used (h : WritesEntry v l w s t) (hw : KeepsTable s v l w)
    (hl : l ≠ .l1 → isUnused (s.pathEntry v l) = false) : TreeGrows v s t where
  tables _ hk := h.tables hw hk
  kept k hk j hj := h.kept k hk j (by by_cases hkl : k = l; exacts [.inr (hkl ▸ hj), .inl hkl])
  clean _ hn hk := absurd (h.reached_of_used hw hl hk) hn

end TreeGrows

/-! #### The allocator where the frames are kept apart -/

namespace MapPlaced

theorem apart_tables (h : MapPlaced s v fs) (hl : s.reached v l) (hk : s.reached v k) (hne : l ≠ k) :
    apart (s.pathTableAt v l) 4096 (s.pathTableAt v k) 4096 = true :=
  apart_of_frameAddress (h.tablesAreFrames l hl).1 (h.tablesAreFrames k hk).1 (h.tablesDistinct l k hl hk hne)

theorem apart_free (h : MapPlaced s v fs) (hl : s.reached v l) (hg : g ∈ fs) :
    apart (s.pathTableAt v l) 4096 g 4096 = true :=
  apart_of_frameAddress (h.tablesAreFrames l hl).1 (h.freeAreFrames g hg).1 (h.freeNotTables g hg l hl).symm

theorem slot_inMemory (h : MapPlaced s v fs) (hl : s.reached v l) : s.inMemory (s.pathSlot v l) 8 = true :=
  State.slot_inMemory (h.tablesAreFrames l hl).2 _

end MapPlaced

/-- The frame `n` can join the path: it is none of its tables, is not free, and the bump path will not hand it out. -/
structure FreshTable (s : State) (v : VirtAddr) (fs : List PhysAddr) (cursor n : PhysAddr) : Prop where
  frame : frameAddress n = true
  inMemory : s.inMemory n 4096 = true
  notTable : ∀ k, s.reached v k → n ≠ s.pathTableAt v k
  notFree : n ∉ fs
  outsideBump : n.val.toNat + 4096 ≤ cursor.val.toNat ∨ s.params.heapLimit ≤ n.val.toNat

/-- `Alloc()` yields the frame `n`, which can join the path of `v`, and leaves the list `fs'` free. -/
structure Supplies (s : State) (v : VirtAddr) (fs : List PhysAddr) (n : PhysAddr) (u : State) (fs' : List PhysAddr) :
    Prop where
  yields : alloc s = .done (some n) u
  fresh : FreshTable s v fs' u.heapTop n
  params : u.params = s.params
  root : u.ptRoot = s.ptRoot
  rootValid : u.ptValid = s.ptValid
  inited : u.inited = true
  lockFree : u.lock = false
  zeroed : u.mem.zeroRange n.val.toNat 4096 = s.mem.zeroRange n.val.toNat 4096
  chain : FreeChain s u.freeHead fs'
  fewer : fs'.Sublist fs
  cursorAligned : pageAligned u.heapTop.val = true
  cursorRises : s.heapTop.val.toNat ≤ u.heapTop.val.toNat

/-- The free-list path supplies the head of the list. -/
theorem MapPlaced.supplies_pop (h : MapPlaced s v (g :: fs)) : Supplies s v (g :: fs) g s.popped fs := by
  obtain ⟨hinit, hlock, rfl, hnil, hin, hchain⟩ := h.freeList
  have hmem := List.mem_cons_self (a := s.freeHead) (l := fs)
  obtain ⟨hframe, hframeIn⟩ := h.freeAreFrames _ hmem
  have hfresh : FreshTable s v fs s.heapTop s.freeHead :=
    ⟨hframe, hframeIn, h.freeNotTables _ hmem, (List.nodup_cons.1 h.freeDistinct).1, h.freeOutsideBump _ hmem⟩
  exact ⟨alloc_pop hinit hlock hnil hin, hfresh, rfl, rfl, rfl, hinit, hlock, rfl, hchain, List.sublist_cons_self _ _,
    h.cursorAligned, le_rfl⟩

/-- The bump path supplies the frame at the cursor. -/
theorem MapPlaced.supplies_bump (h : MapPlaced s v []) (hfit : s.heapTop.val.toNat + 4096 ≤ s.params.heapLimit) :
    Supplies s v [] s.heapTop s.bumped [] := by
  obtain ⟨hinit, hlock, hnil⟩ := h.freeList
  obtain ⟨hsize, hlimit⟩ := h.limitInDomain
  have hleft : s.BumpLeft 1 := ⟨hinit, hlock, hnil, h.cursorAligned, by omega, hsize, hlimit⟩
  have hcursor := hleft.toNat_cursor
  have haligned := pageAligned_iff.1 h.cursorAligned
  have hnotTable (k : Level) (hk : s.reached v k) : s.heapTop ≠ s.pathTableAt v k := by
    intro heq
    have hout := h.tablesOutsideBump k hk
    rw [← heq, Config.frameSize] at hout
    omega
  constructor
  case yields => exact alloc_bumped hinit hlock hnil hfit hleft.frame_inMemory
  case fresh => exact ⟨hleft.frame, hleft.frame_inMemory, hnotTable, List.not_mem_nil, .inl hcursor.ge⟩
  case params => exact s.bumped_params
  case root => exact s.bumped_ptRoot
  case rootValid => exact s.bumped_ptValid
  case inited => exact s.bumped_inited.trans hinit
  case lockFree => exact s.bumped_lock.trans hlock
  case zeroed => rw [State.bumped_mem, Memory.zeroRange_zeroRange]
  case chain => exact s.bumped_freeHead.trans hnil
  case fewer => exact .slnil
  case cursorAligned =>
    rw [State.bumped_heapTop, pageAligned_iff, hcursor]
    omega
  case cursorRises =>
    rw [State.bumped_heapTop, hcursor]
    omega

/-- `Alloc()` supplies a frame or, with nothing left, changes nothing (R67). -/
theorem MapPlaced.alloc_supplies (h : MapPlaced s v fs) :
    alloc s = .done none s ∨ ∃ n u fs', Supplies s v fs n u fs' := by
  cases fs with
  | cons g fs => exact .inr ⟨g, _, fs, h.supplies_pop⟩
  | nil =>
    obtain ⟨hinit, hlock, hnil⟩ := h.freeList
    cases hx : s.heapExhausted with
    | true => exact .inl (alloc_exhausted hinit hlock hnil hx)
    | false => exact .inr ⟨_, _, [], h.supplies_bump (State.heapExhausted_eq_false.1 hx)⟩

/-! #### What one level of the descent, and the last write, keep -/

/-- The frames stay apart where each table the path reaches is one it had reached or is fresh, the fresh one being at the
level `l'`, and where fewer frames are free and the cursor has only risen. -/
theorem MapPlaced.of_tables (h : MapPlaced s v fs) (hroot : t.ptValid = s.ptValid) (hparams : t.params = s.params)
    (hfree : FreeList t fs') (hfewer : fs'.Sublist fs) (haligned : pageAligned t.heapTop.val = true)
    (hrises : s.heapTop.val.toNat ≤ t.heapTop.val.toNat)
    (htables : ∀ k, t.reached v k → (s.reached v k ∧ t.pathTableAt v k = s.pathTableAt v k) ∨
      (k = l' ∧ FreshTable s v fs' t.heapTop (t.pathTableAt v k))) : MapPlaced t v fs' where
  rootValid := hroot.trans h.rootValid
  freeList := hfree
  tablesAreFrames k hk := by
    rw [State.inMemory_congr hparams]
    rcases htables k hk with ⟨hks, htable⟩ | ⟨-, hfresh⟩
    · rw [htable]
      exact h.tablesAreFrames k hks
    · exact ⟨hfresh.frame, hfresh.inMemory⟩
  tablesDistinct k k' hk hk' hne := by
    rcases htables k hk with ⟨hks, htable⟩ | ⟨hkl, hfresh⟩ <;>
      rcases htables k' hk' with ⟨hks', htable'⟩ | ⟨hkl', hfresh'⟩
    · rw [htable, htable']
      exact h.tablesDistinct k k' hks hks' hne
    · rw [htable]
      exact (hfresh'.notTable k hks).symm
    · rw [htable']
      exact hfresh.notTable k' hks'
    · exact absurd (hkl.trans hkl'.symm) hne
  freeAreFrames g hg := by
    rw [State.inMemory_congr hparams]
    exact h.freeAreFrames g (hfewer.subset hg)
  freeDistinct := h.freeDistinct.sublist hfewer
  freeNotTables g hg k hk := by
    rcases htables k hk with ⟨hks, htable⟩ | ⟨-, hfresh⟩
    · rw [htable]
      exact h.freeNotTables g (hfewer.subset hg) k hks
    · exact fun heq => hfresh.notFree (heq ▸ hg)
  cursorAligned := haligned
  limitInDomain := by
    rw [hparams]
    exact h.limitInDomain
  tablesOutsideBump k hk := by
    rw [hparams]
    rcases htables k hk with ⟨hks, htable⟩ | ⟨-, hfresh⟩
    · rw [htable]
      exact (h.tablesOutsideBump k hks).imp_left fun hle => hle.trans hrises
    · exact hfresh.outsideBump
  freeOutsideBump g hg := by
    rw [hparams]
    exact (h.freeOutsideBump g (hfewer.subset hg)).imp_left fun hle => hle.trans hrises

namespace MapPlaced

/-- No slot of the path is the next-pointer of a free frame. -/
theorem apart_slot_free (h : MapPlaced s v fs) (hl : s.reached v l) (hg : g ∈ fs) :
    apart (s.pathSlot v l) 8 g 8 = true :=
  apart_part (apart_slot_frame (h.tablesAreFrames l hl).1 (h.apart_free hl hg) _) le_rfl (by omega)

/-- The memory after the level-`l` entry is written. -/
theorem writesEntry (h : MapPlaced s v fs) (hl : s.reached v l) (w : Pte) :
    WritesEntry v l w s (s.withMem (s.mem.writeWord (s.pathSlot v l) w)) where
  reached := hl
  root := rfl
  written := Memory.readWord_writeWord_same s.mem (s.pathSlot v l) w
  kept k hk j hj := by
    have hframe := (h.tablesAreFrames l hl).1
    rw [State.withMem_mem, State.pathSlot]
    by_cases hkl : k = l
    · subst hkl
      rw [Memory.readWord_writeWord_slot hframe, if_neg (hj.resolve_left fun hne => hne rfl)]
    · exact Memory.readWord_writeWord_other hframe (h.tablesAreFrames k hk).1
        (h.apart_tables hl hk fun heq => hkl heq.symm) _ _

/-- A write of an entry that keeps the path keeps the frames apart. -/
theorem written (h : MapPlaced s v fs) (hl : s.reached v l) (hw : KeepsTable s v l w)
    (hused : l ≠ .l1 → isUnused (s.pathEntry v l) = false) :
    MapPlaced (s.withMem (s.mem.writeWord (s.pathSlot v l) w)) v fs ∧
      TreeGrows v s (s.withMem (s.mem.writeWord (s.pathSlot v l) w)) := by
  have hwrites := h.writesEntry hl w
  obtain ⟨hinit, hlock, hchain⟩ := h.freeList
  refine ⟨h.of_tables (l' := l) rfl rfl ⟨hinit, hlock, hchain.congr rfl fun g hg => ?_⟩ (List.Sublist.refl fs)
    h.cursorAligned le_rfl fun k hk => .inl ?_, .of_used hwrites hw hused⟩
  · exact Memory.readWord_writeWord_of_apart w (h.apart_slot_free hl hg)
  · have hks := hwrites.reached_of_used hw hused hk
    exact ⟨hks, (hwrites.tables hw hks).2⟩

/-- The memory after the frame supplied is linked at the level-`l` entry. -/
theorem linksEntry (h : MapPlaced s v fs) (hs : Supplies s v fs n u fs') (hl : s.reached v l) :
    WritesEntry v l (n.val ||| 3) s (u.withMem (s.mem.linkFrame (s.pathSlot v l) n)) where
  reached := hl
  root := hs.root
  written := Memory.readWord_linkFrame_link s.mem (s.pathSlot v l) n
  kept k hk j hj := by
    have hframe := (h.tablesAreFrames l hl).1
    have hkframe := (h.tablesAreFrames k hk).1
    have hapart := apart_of_frameAddress hs.fresh.frame hkframe (hs.fresh.notTable k hk)
    rw [State.withMem_mem, State.pathSlot]
    by_cases hkl : k = l
    · subst hkl
      rw [Memory.readWord_linkFrame_slot hframe hapart, if_neg (hj.resolve_left fun hne => hne rfl)]
    · exact Memory.readWord_linkFrame_other hframe hkframe (h.apart_tables hl hk fun heq => hkl heq.symm) hapart _ _

/-- Linking the frame supplied at an unused entry keeps the frames apart, and the frame is the next table, empty. -/
theorem linked (h : MapPlaced s v fs) (hs : Supplies s v fs n u fs') (hl : s.reached v l)
    (hbelow : l'.above = l.above ++ [l]) (hunused : isUnused (s.pathEntry v l) = true) :
    MapPlaced (u.withMem (s.mem.linkFrame (s.pathSlot v l) n)) v fs' ∧
      TreeGrows v s (u.withMem (s.mem.linkFrame (s.pathSlot v l) n)) ∧
      (u.withMem (s.mem.linkFrame (s.pathSlot v l) n)).reached v l' ∧
      (u.withMem (s.mem.linkFrame (s.pathSlot v l) n)).pathTableAt v l' = n := by
  have hlinks := h.linksEntry hs hl
  have hslotApart : apart (s.pathSlot v l) 8 n 4096 = true :=
    apart_slot_frame (h.tablesAreFrames l hl).1
      (apart_of_frameAddress (h.tablesAreFrames l hl).1 hs.fresh.frame (hs.fresh.notTable l hl).symm) _
  have hempty (j : BitVec 9) : (s.mem.linkFrame (s.pathSlot v l) n).readWord (slot n j) = 0 :=
    Memory.readWord_linkFrame_new hs.fresh.frame hslotApart j
  generalize ht : u.withMem (s.mem.linkFrame (s.pathSlot v l) n) = t at hlinks ⊢
  have hmem : t.mem = s.mem.linkFrame (s.pathSlot v l) n := ht ▸ rfl
  have hparams : t.params = s.params := (ht ▸ rfl : t.params = u.params).trans hs.params
  have htop : t.heapTop = u.heapTop := ht ▸ rfl
  have hw : KeepsTable s v l (n.val ||| 3) := fun _ hused => absurd (hunused.symm.trans hused) (by decide)
  obtain ⟨hreached, htable⟩ := hlinks.tables hw hl
  have hentry := hlinks.pathEntry hl htable
  rw [if_pos rfl] at hentry
  have hnew : t.pathTableAt v l' = n := by rw [State.pathTableAt_below hbelow, hentry, physAddr_link hs.fresh.frame]
  have hnewReached : t.reached v l' := (State.reached_below hbelow).2 ⟨hreached, hentry ▸ isUnused_or_three _⟩
  have hcases (k : Level) (hk : t.reached v k) :
      (s.reached v k ∧ t.pathTableAt v k = s.pathTableAt v k) ∨ (k = l' ∧ t.pathTableAt v k = n) := by
    have hback := hlinks.reached_of_unused hw hbelow (by rw [physAddr_link hs.fresh.frame, hmem]; exact hempty) hk
    rcases hback with hks | rfl
    · exact .inl ⟨hks, (hlinks.tables hw hks).2⟩
    · exact .inr ⟨rfl, hnew⟩
  refine ⟨?_, ⟨fun k hk => hlinks.tables hw hk, fun k hk j hj => ?_, fun k hns hk j hj => ?_⟩, hnewReached, hnew⟩
  · refine h.of_tables (l' := l') (ht ▸ hs.rootValid) hparams ⟨ht ▸ hs.inited, ht ▸ hs.lockFree, ?_⟩ hs.fewer
      (htop ▸ hs.cursorAligned) (htop ▸ hs.cursorRises) fun k hk => (hcases k hk).imp_right fun ⟨hkl, htable⟩ =>
        ⟨hkl, by rw [htable, htop]; exact hs.fresh⟩
    have hhead : t.freeHead = u.freeHead := ht ▸ rfl
    rw [hhead]
    refine hs.chain.congr hparams fun g hg => ?_
    have hgfs := hs.fewer.subset hg
    have hnext : apart n 4096 g 4096 = true :=
      apart_of_frameAddress hs.fresh.frame (h.freeAreFrames g hgfs).1 fun heq => hs.fresh.notFree (heq ▸ hg)
    rw [hmem, Memory.readWord_linkFrame_apart (h.apart_slot_free hl hgfs) (apart_part hnext le_rfl (by omega))]
  · exact hlinks.kept k hk j (by by_cases hkl : k = l; exacts [.inr (hkl ▸ hj), .inl hkl])
  · rcases hcases k hk with ⟨hks, -⟩ | ⟨-, htable⟩
    · exact absurd hks hns
    · rw [htable, hmem]
      exact hempty j

/-- One level of the descent keeps the frames apart and comes to the table below, or finds no frame for it. -/
theorem descendLevel_placed (h : MapPlaced s v fs) (hl : s.reached v l) (hbelow : l'.above = l.above ++ [l]) :
    descendLevel v l (s.pathTableAt v l) s = .done none s ∨
      ∃ t fs', descendLevel v l (s.pathTableAt v l) s = .done (some (t.pathTableAt v l')) t ∧ MapPlaced t v fs' ∧
        TreeGrows v s t ∧ t.reached v l' := by
  have hslot := h.slot_inMemory hl
  cases hu : isUnused (s.pathEntry v l) with
  | true =>
    rcases h.alloc_supplies with hnone | ⟨n, u, fs', hs⟩
    · exact .inl (descendLevel_exhausted hslot hu hnone)
    · obtain ⟨hplaced, hgrows, hreached, htable⟩ := h.linked hs hl hbelow hu
      refine .inr ⟨_, fs', ?_, hplaced, hgrows, hreached⟩
      rw [htable]
      exact descendLevel_link hslot hu hs.yields hs.params hs.fresh.frame hs.fresh.inMemory hs.zeroed
  | false =>
    have hw : KeepsTable s v l (s.pathEntry v l ||| 3) := fun _ _ => ⟨isUnused_or_three _, physAddr_or_three _⟩
    obtain ⟨hplaced, hgrows⟩ := h.written hl hw fun _ => hu
    obtain ⟨hreached, htable⟩ := hgrows.tables l hl
    have hentry := (h.writesEntry hl (s.pathEntry v l ||| 3)).pathEntry hl htable
    rw [if_pos rfl] at hentry
    refine .inr ⟨_, fs, ?step, hplaced, hgrows, (State.reached_below hbelow).2 ⟨hreached, ?used⟩⟩
    case used =>
      rw [hentry]
      exact isUnused_or_three _
    case step =>
      have hstep := descendLevel_reuse (v := v) (t := s.pathTableAt v l) hslot hu
      rw [refreshTable_eq_or] at hstep
      rw [State.pathTableAt_below hbelow, hentry]
      exact hstep

/-- So does the rest of the descent, to the level-1 table. -/
theorem descend_placed (h : MapPlaced s v fs) (hl : s.reached v l) :
    ∃ r t fs', descend v l.interiorFrom (s.pathTableAt v l) s = .done r t ∧ MapPlaced t v fs' ∧ TreeGrows v s t ∧
      ∀ table, r = some table → table = t.pathTableAt v .l1 ∧ t.reached v .l1 := by
  induction l using Level.climbInduction generalizing s fs with
  | bottom => exact ⟨_, s, fs, rfl, h, .refl v s, fun table htable => ⟨(Option.some.inj htable).symm, hl⟩⟩
  | above l l' hbelow hnext ih =>
    rw [hnext]
    rcases h.descendLevel_placed hl hbelow with hnone | ⟨t, fs', hstep, hplaced, hgrows, hreached⟩
    · exact ⟨none, s, fs, descend_cons_of_none hnone, h, .refl v s, nofun⟩
    · obtain ⟨r, u, fs'', hrest, hplaced', hgrows', hlast⟩ := ih hplaced hreached
      exact ⟨r, u, fs'', (descend_cons_of_done hstep).trans hrest, hplaced', hgrows.trans hgrows', hlast⟩

/-- So does a map, which ends with the mapping in the level-1 slot or with no frame. -/
theorem mapOne_placed (h : MapPlaced s v fs) (p : PhysAddr) (f : FlagWord) :
    ∃ st t fs', mapOne v p f s = .done st t ∧ MapPlaced t v fs' ∧ TreeGrows v s t ∧
      (st = .ok → t.reached v .l1 ∧ t.pathEntry v .l1 = newPageEntry p f) := by
  obtain ⟨r, t, fs', hdescend, hplaced, hgrows, hlast⟩ := h.descend_placed (s.reached_top v)
  cases r with
  | none => exact ⟨.none, t, fs', mapOne_of_descend_none hdescend, hplaced, hgrows, nofun⟩
  | some table =>
    obtain ⟨rfl, hreached⟩ := hlast table rfl
    have hw : KeepsTable t v .l1 (newPageEntry p f) := fun hne => absurd rfl hne
    obtain ⟨hplaced', hgrows'⟩ := hplaced.written hreached hw fun hne => absurd rfl hne
    obtain ⟨hreached', htable⟩ := hgrows'.tables .l1 hreached
    refine ⟨.ok, _, fs', mapOne_of_descend_some hdescend (hplaced.slot_inMemory hreached), hplaced',
      hgrows.trans hgrows', fun _ => ⟨hreached', ?_⟩⟩
    exact ((hplaced.writesEntry hreached _).pathEntry hreached htable).trans (if_pos rfl)

/-- The path of a page whose tables all exist lies in memory. -/
theorem pathInMemory (h : MapPlaced s v fs) (hl : s.reached v .l1) : s.pathInMemory v = true :=
  State.pathInMemory_iff.2 ⟨h.rootValid, fun l => h.slot_inMemory (State.reached_of_reached_l1 hl l)⟩

end MapPlaced

/-- Settles O40: level by level the descent keeps the frames apart, and each table it makes is a frame zeroed before it is
linked; at the end the lookups walk the path to the mapping. -/
theorem mapThenRetrieveGivesTheFrameBack : Obligations.MapThenRetrieveGivesTheFrameBack := by
  intro v p f fs s h
  obtain ⟨st, t, fs', hmap, hplaced, hgrows, hok⟩ := h.mapOne_placed p f
  refine ⟨t.respond st 0 0, exec_ptMap_of_mapOne h.rootValid hmap, ?_, hgrows.clean, fun hst => ?_⟩
  · exact (status_of_mapOne_eq_done hmap).symm.imp (congrArg some) (congrArg some)
  · obtain ⟨hreached, hentry⟩ := hok (Option.some.inj hst)
    have hin := hplaced.pathInMemory hreached
    refine ⟨State.reached_of_reached_l1 hreached, ?_, ?_⟩
    · rw [exec_respond, exec_ptRetrieve_inMemory hin, hentry, physAddr_newPageEntry]
      rfl
    · rw [exec_respond, exec_ptGetL1_inMemory hin, hentry]
      rfl

end Sys2Proof.Machine

/-! ### What the host writes -/

namespace Sys2Proof.Machine

/-- R113: a host write inside memory touches memory alone. -/
theorem hostWrite_inMemory {s : State} {a : PhysAddr} {bs : List Byte} (h : s.inMemory a bs.length = true) :
    hostWrite a bs s = .next (s.withMem (s.mem.writeBytes a.val.toNat bs)) :=
  if_pos h

theorem Memory.read_writeBytes_inside (bs : List Byte) (m : Memory) (a : Nat) {i : Nat} (h : i < bs.length) :
    Memory.read (Memory.writeBytes m a bs) (a + i) = bs[i] := by
  rw [Memory.read_writeBytes, dif_pos ⟨Nat.le_add_right a i, Nat.add_lt_add_left h a⟩]
  congr 1
  exact Nat.add_sub_cancel_left a i

/-- Settles O9: the write comes off the queue, and memory then holds its bytes in their range and is as before outside
it. -/
theorem hostWriteSetsExactlyTheBytesWritten : Obligations.HostWriteSetsExactlyTheBytesWritten := by
  intro s a bs rest hq hsize hwrap
  have hin : (s.withInbox rest).inMemory a bs.length = true := (State.inMemory_iff _ _ _).2 ⟨hsize, hwrap⟩
  exact ⟨_, (step_of_inbox_cons hq).trans (hostWrite_inMemory hin),
    fun _ hi => Memory.read_writeBytes_inside bs s.mem _ hi, fun _ hx => Memory.read_writeBytes_outside bs s.mem hx⟩

end Sys2Proof.Machine

/-! ### How a command can end

A procedure raises no cause but those of the procedures and accesses it is made of: `BUS` comes from a memory access,
`ORDER` from the allocator, `NOROOT` from `RequireRoot()`. The walker is gone through once, for any set of causes. -/

namespace Sys2Proof.Machine

variable {α β : Type} {A : α → Prop} {B : β → Prop} {C : FatalCause → Prop} {i : Instr} {s : State}

/-- The procedure yields a value in `A`, raises a cause in `C`, or hangs. -/
def Eff.EndsWith (A : α → Prop) (C : FatalCause → Prop) : Eff α → Prop
  | .done a _ => A a
  | .raised c _ => C c
  | .hung => True

/-- Of the value the procedure yields, nothing is said. -/
abbrev Eff.RaisesOnly (C : FatalCause → Prop) (e : Eff α) : Prop := e.EndsWith (fun _ => True) C

theorem Eff.endsWith_bind {e : Eff α} {k : α → State → Eff β} (he : e.EndsWith A C)
    (hk : ∀ a u, A a → (k a u).EndsWith B C) : (e.bind k).EndsWith B C := by
  cases e with
  | done a u => exact hk a u he
  | raised c u => exact he
  | hung => trivial

/-! #### Memory access and the allocator -/

theorem memRead_raisesOnly (a : PhysAddr) (s : State) (hbus : C .bus) : (memRead a s).RaisesOnly C := by
  unfold memRead
  split
  · trivial
  · exact hbus

theorem memWrite_raisesOnly (a : PhysAddr) (w : Word) (s : State) (hbus : C .bus) : (memWrite a w s).RaisesOnly C := by
  unfold memWrite
  split
  · trivial
  · exact hbus

theorem zeroFrame_raisesOnly (f : PhysAddr) (s : State) (hbus : C .bus) : (zeroFrame f s).RaisesOnly C := by
  unfold zeroFrame
  split
  · trivial
  · exact hbus

theorem lockAcquire_raisesOnly (C : FatalCause → Prop) (s : State) : (lockAcquire s).RaisesOnly C := by
  unfold lockAcquire
  split <;> trivial

/-- R66: `Alloc()` raises `ORDER` before `FA_INIT`, and `BUS` at the free list's head or the bump frame. -/
theorem alloc_raisesOnly (s : State) (horder : C .order) (hbus : C .bus) : (alloc s).RaisesOnly C := by
  rcases alloc_cases s with ⟨-, e⟩ | ⟨-, -, e⟩ |
    ⟨-, -, ⟨-, -, e⟩ | ⟨-, -, e⟩ | ⟨-, -, e⟩ | ⟨-, -, -, e⟩ | ⟨-, -, -, e⟩⟩ <;> rw [e]
  · exact horder
  · trivial
  · trivial
  · exact hbus
  · trivial
  · trivial
  · exact hbus

/-- R68: `Free(f)` raises `ORDER` before `FA_INIT`, and `BUS` at the frame's first word. -/
theorem free_raisesOnly (f : PhysAddr) (s : State) (horder : C .order) (hbus : C .bus) : (free f s).RaisesOnly C := by
  rcases free_cases f s with ⟨-, e⟩ | ⟨-, -, e⟩ | ⟨-, -, ⟨-, e⟩ | ⟨-, e⟩⟩ <;> rw [e]
  · exact horder
  · trivial
  · trivial
  · exact hbus

/-! #### The walker -/

theorem findL1_raisesOnly (v : VirtAddr) (s : State) (hbus : C .bus) : (findL1 v s).RaisesOnly C := by
  rcases findL1_cases v s with e | e <;> rw [e]
  · trivial
  · exact hbus

theorem unmapOne_raisesOnly (v : VirtAddr) (s : State) (hbus : C .bus) : (unmapOne v s).RaisesOnly C :=
  Eff.endsWith_bind (findL1_raisesOnly v s hbus) fun a u _ => memWrite_raisesOnly a _ u hbus

theorem growTable_raisesOnly (a : PhysAddr) (s : State) (horder : C .order) (hbus : C .bus) :
    (growTable a s).RaisesOnly C := by
  refine Eff.endsWith_bind (alloc_raisesOnly s horder hbus) fun n u _ => ?_
  cases n with
  | none => trivial
  | some n =>
    exact Eff.endsWith_bind (zeroFrame_raisesOnly n u hbus) fun _ u _ =>
      Eff.endsWith_bind (memWrite_raisesOnly a _ u hbus) fun _ _ _ => trivial

theorem reuseTable_raisesOnly (a : PhysAddr) (e : Pte) (s : State) (hbus : C .bus) :
    (reuseTable a e s).RaisesOnly C :=
  Eff.endsWith_bind (memWrite_raisesOnly a _ s hbus) fun _ _ _ => trivial

theorem descendLevel_raisesOnly (v : VirtAddr) (l : Level) (t : PhysAddr) (s : State) (horder : C .order)
    (hbus : C .bus) : (descendLevel v l t s).RaisesOnly C := by
  refine Eff.endsWith_bind (memRead_raisesOnly _ s hbus) fun e u _ =>
    Eff.endsWith_bind (A := fun _ => True) ?_ fun _ _ _ => trivial
  split
  · exact growTable_raisesOnly _ u horder hbus
  · exact reuseTable_raisesOnly _ e u hbus

theorem descend_raisesOnly (v : VirtAddr) (ls : List Level) (t : PhysAddr) (s : State) (horder : C .order)
    (hbus : C .bus) : (descend v ls t s).RaisesOnly C := by
  induction ls generalizing t s with
  | nil => trivial
  | cons l ls ih =>
    refine Eff.endsWith_bind (descendLevel_raisesOnly v l t s horder hbus) fun t u _ => ?_
    cases t with
    | none => trivial
    | some t => exact ih t u

/-- R76: `MapOne` yields `OK` or, with the allocator exhausted, `NONE`. -/
theorem mapOne_endsWith (v : VirtAddr) (p : PhysAddr) (f : FlagWord) (s : State) (horder : C .order) (hbus : C .bus) :
    (mapOne v p f s).EndsWith (fun st => st = .ok ∨ st = .none) C := by
  refine Eff.endsWith_bind (descend_raisesOnly v _ _ s horder hbus) fun t u _ => ?_
  cases t with
  | none => exact .inr rfl
  | some t => exact Eff.endsWith_bind (memWrite_raisesOnly _ _ u hbus) fun _ _ _ => .inl rfl

/-! #### The commands -/

/-- R101, R102: the statuses a command can answer without entering the fatal state. -/
def CanAnswer (i : Instr) (r : Response) : Prop := r.status = .ok ∨ r.status = .none ∧ callsAlloc i = true

/-- R104: the causes a command run from `s` can enter the fatal state with. -/
def CanRaise (i : Instr) (s : State) : FatalCause → Prop
  | .order => callsAlloc i = true ∨ ∃ a, i = .faInit a ∨ i = .faFree a
  | .noroot => needsRoot i = true ∧ s.ptValid = false
  | .bus => reachesMemory i = true

/-- R75: without a root a walker command may raise `NOROOT`, so only its procedure with a root is left to look at. -/
theorem requireRoot_bind_endsWith {k : Unit → State → Eff β} (hneeds : needsRoot i = true)
    (hk : (k () s).EndsWith B (CanRaise i s)) : ((requireRoot s).bind k).EndsWith B (CanRaise i s) := by
  cases hroot : s.ptValid with
  | true => rwa [requireRoot_valid hroot]
  | false =>
    rw [requireRoot_invalid hroot]
    exact ⟨hneeds, hroot⟩

theorem mapPages_endsWith (v : VirtAddr) (p : PhysAddr) (f : FlagWord) (n k : Nat) (s : State)
    (hcalls : callsAlloc i = true) (horder : C .order) (hbus : C .bus) :
    (mapPages v p f n k s).EndsWith (CanAnswer i) C := by
  induction n generalizing k s with
  | zero => exact .inl rfl
  | succ n ih =>
    refine Eff.endsWith_bind (mapOne_endsWith _ _ f s horder hbus) fun st u _ => ?_
    split
    · exact .inr ⟨rfl, hcalls⟩
    · exact ih (k + 1) u

theorem unmapPages_endsWith (i : Instr) (v : VirtAddr) (n k : Nat) (s : State) (hbus : C .bus) :
    (unmapPages v n k s).EndsWith (CanAnswer i) C := by
  induction n generalizing k s with
  | zero => exact .inl rfl
  | succ n ih => exact Eff.endsWith_bind (unmapOne_raisesOnly _ s hbus) fun _ u _ => ih (k + 1) u

/-- Every command is a procedure that ends in one of its statuses or one of its causes. -/
theorem exists_procedure_endsWith (i : Instr) (s : State) :
    ∃ e : Eff Response, exec i s = e.finish ∧ e.EndsWith (CanAnswer i) (CanRaise i s) := by
  by_cases hp : isPure i = true
  · obtain ⟨r0, r1, he⟩ := exec_pure hp
    exact ⟨.done ⟨.ok, r0, r1⟩ s, he s, .inl rfl⟩
  cases i with
  | faInit f =>
    refine ⟨_, rfl, ?_⟩
    split
    · exact .inr ⟨f, .inl rfl⟩
    · exact Eff.endsWith_bind (lockAcquire_raisesOnly _ s) fun _ _ _ => .inl rfl
  | faAlloc =>
    refine ⟨_, rfl, Eff.endsWith_bind (alloc_raisesOnly s (.inl rfl) rfl) fun f u _ => ?_⟩
    cases f with
    | none => exact .inr ⟨rfl, rfl⟩
    | some f => exact .inl rfl
  | faFree f =>
    exact ⟨_, rfl, Eff.endsWith_bind (free_raisesOnly f s (.inr ⟨f, .inr rfl⟩) rfl) fun _ _ _ => .inl rfl⟩
  | ptCreate =>
    refine ⟨_, rfl, Eff.endsWith_bind (alloc_raisesOnly s (.inl rfl) rfl) fun n u _ => ?_⟩
    cases n with
    | none => exact .inr ⟨rfl, rfl⟩
    | some n => exact Eff.endsWith_bind (zeroFrame_raisesOnly n u rfl) fun _ _ _ => .inl rfl
  | ptAttach r => exact ⟨.done ⟨.ok, 0, 0⟩ (s.withRoot r), rfl, .inl rfl⟩
  | ptMap v p f =>
    exact ⟨_, rfl, requireRoot_bind_endsWith rfl <|
      Eff.endsWith_bind (mapOne_endsWith v p f s (.inl rfl) rfl) fun _ _ hst =>
        hst.imp_right fun hnone => ⟨hnone, rfl⟩⟩
  | ptUnmap v =>
    exact ⟨_, rfl, requireRoot_bind_endsWith rfl <|
      Eff.endsWith_bind (unmapOne_raisesOnly v s rfl) fun _ _ _ => .inl rfl⟩
  | ptGetL1 v | ptRetrieve v =>
    exact ⟨_, rfl, requireRoot_bind_endsWith rfl <| Eff.endsWith_bind (findL1_raisesOnly v s rfl) fun a u _ =>
      Eff.endsWith_bind (memRead_raisesOnly a u rfl) fun _ _ _ => .inl rfl⟩
  | ptMapRegion v p n f =>
    exact ⟨_, rfl, requireRoot_bind_endsWith rfl (mapPages_endsWith v p f _ 0 s rfl (.inl rfl) rfl)⟩
  | ptUnmapRegion v n => exact ⟨_, rfl, requireRoot_bind_endsWith rfl (unmapPages_endsWith _ v _ 0 s rfl)⟩
  | ptEnable => exact ⟨_, rfl, requireRoot_bind_endsWith rfl (.inl rfl)⟩
  | _ => exact absurd rfl hp

@[simp] theorem State.respond_lastStatus (s : State) (st : Status) (r0 r1 : Word) :
    (s.respond st r0 r1).lastStatus = some st := rfl

@[simp] theorem State.raiseFatal_lastStatus (s : State) (c : FatalCause) :
    (s.raiseFatal c).lastStatus = some .fatal := rfl

/-- Settles O56: what the command's procedure ends in is its status, or its cause in the fatal state. -/
theorem statusesAndCausesComeFromTheirCommandsOnly : Obligations.StatusesAndCausesComeFromTheirCommandsOnly := by
  intro i s t h
  obtain ⟨e, he, hends⟩ := exists_procedure_endsWith i s
  rcases Eff.finish_eq_next.1 (he.symm.trans h) with ⟨r, u, rfl, rfl⟩ | ⟨c, u, rfl, rfl⟩
  · have hanswer : r.status = .ok ∨ r.status = .none ∧ callsAlloc i = true := hends
    rcases hanswer with hok | ⟨hnone, hcalls⟩
    · simp [hok]
    · simp [hnone, hcalls]
  · refine ⟨by simp, by simp, fun _ => ⟨rfl, ?_⟩⟩
    cases c with
    | order => exact .inl ⟨rfl, rfl, hends⟩
    | noroot => exact .inr (.inl ⟨rfl, rfl, hends⟩)
    | bus => exact .inr (.inr ⟨rfl, rfl, hends⟩)

end Sys2Proof.Machine

/-! ### The reset event -/

namespace Sys2Proof.Machine

/-- R116: a reset event is the block's own reset, whatever the state. -/
theorem perform_reset (s : State) : perform .reset s = .next s.applyReset := rfl

/-- Settles O7: the event comes off the queue, and each field is then as `applyReset` has it. -/
theorem resetEventRestoresEveryField : Obligations.ResetEventRestoresEveryField := by
  intro s rest hs
  exact ⟨(s.withInbox rest).applyReset, (step_of_inbox_cons hs).trans (perform_reset _), by simp⟩

end Sys2Proof.Machine

/-! ### Mapping before `FA_INIT` -/

namespace Sys2Proof.Machine

variable {v : VirtAddr} {l : Level} {s : State}

/-- R117: before `FA_INIT` one level of the descent cannot grow the tree: `Alloc()` raises before any write. -/
theorem descendLevel_not_inited {t : PhysAddr} (hi : s.inited = false)
    (hm : s.inMemory (slot t (index v l)) 8 = true) (hu : isUnused (s.mem.readWord (slot t (index v l))) = true) :
    descendLevel v l t s = .raised .order s := by
  rw [descendLevel, memRead_inMemory hm, Eff.bind_done, if_pos hu, growTable, alloc_not_inited hi]
  rfl

theorem descend_cons_of_raised {ls : List Level} {t : PhysAddr} {c : FatalCause} {u : State}
    (h : descendLevel v l t s = .raised c u) : descend v (l :: ls) t s = .raised c u := by
  rw [descend, h]
  rfl

/-- A walk at an interior level's table has that level to pass first. -/
theorem Level.interiorFrom_eq_cons (h : l ≠ .l1) : ∃ ls, l.interiorFrom = l :: ls := by
  cases l with
  | l1 => exact absurd rfl h
  | l2 | l3 | l4 => exact ⟨_, rfl⟩

/-- R117: a map that comes by tables that exist to an unused interior entry stops there before `FA_INIT`. -/
theorem mapOne_not_inited (p : PhysAddr) (f : FlagWord) (hi : s.inited = false) (hl : l ≠ .l1)
    (hm : ∀ l' ∈ l.above ++ [l], s.inMemory (s.pathSlot v l') 8 = true) (hs : s.slotsApart v (l.above ++ [l]))
    (hr : s.reached v l) (hu : s.pathEntry v l = 0) :
    mapOne v p f s = .raised .order (s.withMem (s.refreshedAbove v l)) := by
  rw [List.forall_mem_append, List.forall_mem_singleton] at hm
  rw [State.slotsApart, List.pairwise_append] at hs
  obtain ⟨hmabove, hml⟩ := hm
  obtain ⟨hsabove, -, hsl⟩ := hs
  have hentry : (s.refreshedAbove v l).readWord (s.pathSlot v l) = 0 :=
    (State.readWord_refreshedAbove fun l' h => hsl l' h l (List.mem_singleton_self l)).trans hu
  have hlevel : descendLevel v l (s.pathTableAt v l) (s.withMem (s.refreshedAbove v l)) =
      .raised .order (s.withMem (s.refreshedAbove v l)) :=
    descendLevel_not_inited hi hml (beq_iff_eq.2 hentry)
  obtain ⟨ls, hfrom⟩ := Level.interiorFrom_eq_cons hl
  rw [mapOne, descend_reached v s l hmabove hr hsabove, hfrom, descend_cons_of_raised hlevel, Eff.bind_raised]

/-- Settles O48: both commands raise what their first page's map raises, and a map over existing tables never calls
`Alloc()`. -/
theorem mapBeforeInitIsFatalAtAnUnusedEntry : Obligations.MapBeforeInitIsFatalAtAnUnusedEntry := by
  intro v p f size s hroot hi
  refine ⟨fun l hl hm hs hr hu => ?_, fun hready => ⟨_, exec_ptMap_ready p f hready, rfl⟩⟩
  have hmap := mapOne_not_inited p f hi hl hm hs hr hu
  refine ⟨?_, fun hsize => ?_⟩
  · rw [exec_ptMap_of_root hroot, hmap]
    rfl
  · rw [exec_ptMapRegion_of_root hroot, mapPages_raised (pageCount_pos hsize) hmap]
    rfl

end Sys2Proof.Machine

/-! ### Termination

With the lock free no procedure hangs, and one that yields has released the lock; one that raises leaves it to
`raise Fatal`, which clears it (R72, R103). The loops are structural, so every command ends. -/

namespace Sys2Proof.Machine

variable {α β : Type} {s : State}

/-- The procedure ends, with the lock free or by raising. -/
def Eff.EndsUnlocked : Eff α → Prop
  | .done _ u => u.lock = false
  | .raised _ _ => True
  | .hung => False

@[simp] theorem Eff.endsUnlocked_done (a : α) (u : State) : (Eff.done a u).EndsUnlocked ↔ u.lock = false := Iff.rfl

theorem Eff.endsUnlocked_bind {e : Eff α} {k : α → State → Eff β} (he : e.EndsUnlocked)
    (hk : ∀ a u, u.lock = false → (k a u).EndsUnlocked) : (e.bind k).EndsUnlocked := by
  cases e with
  | done a u => exact hk a u he
  | raised c u => trivial
  | hung => exact he.elim

/-- A command whose procedure ends has a response, and the lock is free after it. -/
theorem Eff.EndsUnlocked.finish {e : Eff Response} (h : e.EndsUnlocked) :
    ∃ t, e.finish = .next t ∧ t.lock = false ∧ t.response.isSome = true := by
  cases e with
  | done r u => exact ⟨_, rfl, h, rfl⟩
  | raised c u => exact ⟨_, rfl, rfl, rfl⟩
  | hung => exact h.elim

/-! #### Memory access and the allocator -/

theorem memRead_endsUnlocked (a : PhysAddr) (h : s.lock = false) : (memRead a s).EndsUnlocked := by
  unfold memRead
  split
  · exact h
  · trivial

theorem memWrite_endsUnlocked (a : PhysAddr) (w : Word) (h : s.lock = false) : (memWrite a w s).EndsUnlocked := by
  unfold memWrite
  split
  · exact h
  · trivial

theorem zeroFrame_endsUnlocked (f : PhysAddr) (h : s.lock = false) : (zeroFrame f s).EndsUnlocked := by
  unfold zeroFrame
  split
  · exact h
  · trivial

/-- R66, R72: `Alloc()` hangs only at a lock found held, and each path that yields releases it. -/
theorem alloc_endsUnlocked (h : s.lock = false) : (alloc s).EndsUnlocked := by
  rcases alloc_cases s with ⟨-, e⟩ | ⟨-, hheld, -⟩ |
    ⟨-, -, ⟨-, -, e⟩ | ⟨-, -, e⟩ | ⟨-, -, e⟩ | ⟨-, -, -, e⟩ | ⟨-, -, -, e⟩⟩
  case inr.inl => exact absurd h (ne_false_of_eq_true hheld)
  all_goals rw [e]
  · trivial
  · exact h
  · trivial
  · exact h
  · rwa [Eff.endsUnlocked_done, State.withMem_lock, State.withHeapTop_lock]
  · trivial

/-- R68, R72: as for `Alloc()`. -/
theorem free_endsUnlocked (f : PhysAddr) (h : s.lock = false) : (free f s).EndsUnlocked := by
  rcases free_cases f s with ⟨-, e⟩ | ⟨-, hheld, -⟩ | ⟨-, -, ⟨-, e⟩ | ⟨-, e⟩⟩
  case inr.inl => exact absurd h (ne_false_of_eq_true hheld)
  all_goals rw [e]
  · trivial
  · exact h
  · trivial

/-! #### The walker -/

theorem requireRoot_endsUnlocked (h : s.lock = false) : (requireRoot s).EndsUnlocked := by
  unfold requireRoot
  split
  · exact h
  · trivial

theorem findL1_endsUnlocked (v : VirtAddr) (h : s.lock = false) : (findL1 v s).EndsUnlocked := by
  rcases findL1_cases v s with e | e <;> rw [e]
  · exact h
  · trivial

theorem unmapOne_endsUnlocked (v : VirtAddr) (h : s.lock = false) : (unmapOne v s).EndsUnlocked :=
  Eff.endsUnlocked_bind (findL1_endsUnlocked v h) fun a _ h => memWrite_endsUnlocked a _ h

theorem unmapPages_endsUnlocked (v : VirtAddr) (n k : Nat) (h : s.lock = false) :
    (unmapPages v n k s).EndsUnlocked := by
  induction n generalizing k s with
  | zero => exact h
  | succ n ih => exact Eff.endsUnlocked_bind (unmapOne_endsUnlocked _ h) fun _ _ h => ih (k + 1) h

theorem growTable_endsUnlocked (a : PhysAddr) (h : s.lock = false) : (growTable a s).EndsUnlocked := by
  refine Eff.endsUnlocked_bind (alloc_endsUnlocked h) fun n u h => ?_
  cases n with
  | none => exact h
  | some n =>
    exact Eff.endsUnlocked_bind (zeroFrame_endsUnlocked n h) fun _ _ h =>
      Eff.endsUnlocked_bind (memWrite_endsUnlocked a _ h) fun _ _ h => h

theorem reuseTable_endsUnlocked (a : PhysAddr) (e : Pte) (h : s.lock = false) : (reuseTable a e s).EndsUnlocked :=
  Eff.endsUnlocked_bind (memWrite_endsUnlocked a _ h) fun _ _ h => h

theorem descendLevel_endsUnlocked (v : VirtAddr) (l : Level) (t : PhysAddr) (h : s.lock = false) :
    (descendLevel v l t s).EndsUnlocked := by
  refine Eff.endsUnlocked_bind (memRead_endsUnlocked _ h) fun e u h => Eff.endsUnlocked_bind ?_ fun _ _ h => h
  split
  · exact growTable_endsUnlocked _ h
  · exact reuseTable_endsUnlocked _ e h

theorem descend_endsUnlocked (v : VirtAddr) (ls : List Level) (t : PhysAddr) (h : s.lock = false) :
    (descend v ls t s).EndsUnlocked := by
  induction ls generalizing t s with
  | nil => exact h
  | cons l ls ih =>
    refine Eff.endsUnlocked_bind (descendLevel_endsUnlocked v l t h) fun t u h => ?_
    cases t with
    | none => exact h
    | some t => exact ih t h

theorem mapOne_endsUnlocked (v : VirtAddr) (p : PhysAddr) (f : FlagWord) (h : s.lock = false) :
    (mapOne v p f s).EndsUnlocked := by
  refine Eff.endsUnlocked_bind (descend_endsUnlocked v _ _ h) fun t u h => ?_
  cases t with
  | none => exact h
  | some t => exact Eff.endsUnlocked_bind (memWrite_endsUnlocked _ _ h) fun _ _ h => h

/-- R126: the region's page count bounds the loop. -/
theorem mapPages_endsUnlocked (v : VirtAddr) (p : PhysAddr) (f : FlagWord) (n k : Nat) (h : s.lock = false) :
    (mapPages v p f n k s).EndsUnlocked := by
  induction n generalizing k s with
  | zero => exact h
  | succ n ih =>
    refine Eff.endsUnlocked_bind (mapOne_endsUnlocked _ _ f h) fun st u h => ?_
    split
    · exact h
    · exact ih (k + 1) h

/-! #### The commands -/

/-- Every command is a procedure that ends with the lock free or by raising. -/
theorem exists_procedure_endsUnlocked (i : Instr) (h : s.lock = false) :
    ∃ e : Eff Response, exec i s = e.finish ∧ e.EndsUnlocked := by
  by_cases hp : isPure i = true
  · obtain ⟨r0, r1, he⟩ := exec_pure hp
    exact ⟨.done ⟨.ok, r0, r1⟩ s, he s, h⟩
  cases i with
  | faInit f =>
    refine ⟨_, rfl, ?_⟩
    split
    · trivial
    · rw [lockAcquire_eq_done.2 ⟨h, rfl⟩]
      exact lockRelease_lock _
  | faAlloc =>
    refine ⟨_, rfl, Eff.endsUnlocked_bind (alloc_endsUnlocked h) fun f u h => ?_⟩
    cases f <;> exact h
  | faFree f => exact ⟨_, rfl, Eff.endsUnlocked_bind (free_endsUnlocked f h) fun _ _ h => h⟩
  | ptCreate =>
    refine ⟨_, rfl, Eff.endsUnlocked_bind (alloc_endsUnlocked h) fun n u h => ?_⟩
    cases n with
    | none => exact h
    | some n => exact Eff.endsUnlocked_bind (zeroFrame_endsUnlocked n h) fun _ _ h => h
  | ptAttach r => exact ⟨.done ⟨.ok, 0, 0⟩ (s.withRoot r), rfl, h⟩
  | ptMap v p f =>
    exact ⟨_, rfl, Eff.endsUnlocked_bind (requireRoot_endsUnlocked h) fun _ _ h =>
      Eff.endsUnlocked_bind (mapOne_endsUnlocked v p f h) fun _ _ h => h⟩
  | ptUnmap v =>
    exact ⟨_, rfl, Eff.endsUnlocked_bind (requireRoot_endsUnlocked h) fun _ _ h =>
      Eff.endsUnlocked_bind (unmapOne_endsUnlocked v h) fun _ _ h => h⟩
  | ptGetL1 v | ptRetrieve v =>
    exact ⟨_, rfl, Eff.endsUnlocked_bind (requireRoot_endsUnlocked h) fun _ _ h =>
      Eff.endsUnlocked_bind (findL1_endsUnlocked v h) fun a _ h =>
        Eff.endsUnlocked_bind (memRead_endsUnlocked a h) fun _ _ h => h⟩
  | ptMapRegion v p size f =>
    exact ⟨_, rfl, Eff.endsUnlocked_bind (requireRoot_endsUnlocked h) fun _ _ h =>
      mapPages_endsUnlocked v p f _ 0 h⟩
  | ptUnmapRegion v size =>
    exact ⟨_, rfl, Eff.endsUnlocked_bind (requireRoot_endsUnlocked h) fun _ _ h =>
      unmapPages_endsUnlocked v _ 0 h⟩
  | ptEnable => exact ⟨_, rfl, Eff.endsUnlocked_bind (requireRoot_endsUnlocked h) fun _ _ h => h⟩
  | _ => exact absurd rfl hp

/-- Settles O33: a command's procedure ends, and its ending is the response, with the lock free. -/
theorem everyCommandTerminatesAndFreesTheLock : Obligations.EveryCommandTerminatesAndFreesTheLock := by
  intro i s h
  obtain ⟨e, he, hends⟩ := exists_procedure_endsUnlocked i h
  rw [he]
  exact hends.finish

end Sys2Proof.Machine
